-- ==== Sys2Proof/Word.lean ====
section
/-! DEFINITION. Word.lean: the word types of the badgemon PPU core. The spec numbers bits from the least significant one
(R13), which is also how BitVec numbers them. -/

namespace Sys2Proof

/-- A word of the command port or of the response port (R95). -/
abbrev Word := BitVec 32

/-- A 16-bit field: a coordinate, a register value, an index (R12, R40). -/
abbrev Half := BitVec 16

/-- An 8-bit field, and one byte of a pixel plane (R12, R63). -/
abbrev Byte := BitVec 8

/-- A 16-bit RGB565 colour (R17, R90). -/
abbrev Colour := BitVec 16

/-- Bits `[start + len - 1 : start]` of a word, the spec's `v[hi:lo]` (R13). -/
abbrev slice {n : Nat} (v : BitVec n) (start len : Nat) : BitVec len := v.extractLsb' start len

end Sys2Proof
end

