-- ==== Sys2Proof/Syntax.lean ====
section
/-! DEFINITION. Syntax.lean: the commands of the host command port, one constructor per row of spec/opcode_table.json (R104).
The block has no other instructions: it executes no program (R3), only commands. -/

namespace Sys2Proof

/-- The layer number of a blit: bit 0 of the command word (R99). -/
inductive LayerId where
  | bg0 | bg1
  deriving DecidableEq, Repr

/-- A command with its operands (R95 to R101). An `idx` keeps all 16 bits of the field, and a register number all 8:
masking an OAM index and faulting on a reserved number belong to the command's meaning (R97, R222, R254). -/
inductive Instr where
  /-- NOP, opcode 0x00 (R220). -/
  | nop
  /-- RENDER, opcode 0x01 (R221). -/
  | render
  /-- SET_SPRITE, opcode 0x02: the index field and the record words S0, S1, S2 (R222, R93). -/
  | setSprite (idx : Half) (s0 s1 s2 : Word)
  /-- GET_SPRITE, opcode 0x03 (R223). -/
  | getSprite (idx : Half)
  /-- BLIT_BG, opcode 0x04: layer, destination, size, and the pixel words' low halves (R224, R100). -/
  | blitBg (layer : LayerId) (x y w h : Half) (px : List Colour)
  /-- BLIT_SHEET, opcode 0x05 (R225, R100). -/
  | blitSheet (x y w h : Half) (px : List Colour)
  /-- WRITE_REG, opcode 0x06 (R226). -/
  | writeReg (reg : Byte) (value : Half)
  /-- READ_REG, opcode 0x07 (R227). -/
  | readReg (reg : Byte)
  /-- READ_FB, opcode 0x08 (R228). -/
  | readFb (k : Half)
  /-- RESET_OAM, opcode 0x09 (R229). -/
  | resetOam
  deriving DecidableEq, Repr

end Sys2Proof
end

