-- ==== Sys2Proof/WellFormed.lean ====
section
/-! DEFINITION. WellFormed.lean: which terms of Instr stand for a command. The only relation between operands the spec states
is that a blit carries exactly `w * h` pixels (R100, "callers must supply `w*h` pixels"). -/

namespace Sys2Proof

/-- A blit's pixel list has exactly `w * h` entries; every other term is a command as it stands (R100, R101). -/
def Instr.wf : Instr → Bool
  | .nop => true
  | .render => true
  | .setSprite _ _ _ _ => true
  | .getSprite _ => true
  | .blitBg _ _ _ w h px => px.length == w.toNat * h.toNat
  | .blitSheet _ _ w h px => px.length == w.toNat * h.toNat
  | .writeReg _ _ => true
  | .readReg _ => true
  | .readFb _ => true
  | .resetOam => true

end Sys2Proof
end

