-- ==== Sys2Proof/Decode.lean ====
section
/-! DEFINITION. Decode.lean: the decoder of the command stream, total on any list of port words, and the encoder. The unit of
the stream is the 32-bit port word (R71, R95); a command is one command word and its payload (R101). -/

namespace Sys2Proof

/-- What the decoder reads at the start of a stream of port words. -/
inductive Decoded where
  /-- A complete command, and the words after it. -/
  | command (i : Instr) (rest : List Word)
  /-- A command word with a reserved opcode; it takes no payload (R106, R253). -/
  | illegal (opcode : Byte) (rest : List Word)
  /-- The stream ends before the command's payload does (R101, R49). -/
  | incomplete
  deriving DecidableEq, Repr

/-- Bits [31:24]: the opcode (R95, R105). -/
def opcodeOf (c : Word) : Byte := slice c 24 8

/-- Bits [15:0]: the `idx` of format I, the `value` of format R (R97, R98), and one pixel of a pixel word (R100). -/
def lowHalf (c : Word) : Half := slice c 0 16

/-- Bits [31:16]: the upper half of a payload word (R93, R100). -/
def highHalf (c : Word) : Half := slice c 16 16

/-- Bits [23:16]: the `reg` of format R (R98). -/
def regField (c : Word) : Byte := slice c 16 8

/-- Bit 0: the `layer` of format B (R99). -/
def layerField (c : Word) : LayerId := if c.getLsbD 0 then .bg1 else .bg0

/-- The number of payload words after a command word, "from its opcode and, for blits, from P1" (R101): `none` while a
blit's P1 is not among the words received. A reserved opcode has none. -/
def payloadWords (c : Word) (ws : List Word) : Option Nat :=
  match (opcodeOf c).toNat with
  | 0x02 => some 3
  | 0x04 | 0x05 =>
    match ws with
    | _ :: p1 :: _ => some (2 + (lowHalf p1).toNat * (highHalf p1).toNat)
    | _ => none
  | _ => some 0

/-- The payload of a blit (R100): P0 = {y, x}, P1 = {h, w}, then `w * h` pixel words. -/
def decodeBlit (mk : Half → Half → Half → Half → List Colour → Instr) : List Word → Decoded
  | p0 :: p1 :: ws =>
    let n := (lowHalf p1).toNat * (highHalf p1).toNat
    if ws.length < n then .incomplete
    else .command (mk (lowHalf p0) (highHalf p0) (lowHalf p1) (highHalf p1) ((ws.take n).map lowHalf)) (ws.drop n)
  | _ => .incomplete

/-- The payload of SET_SPRITE: the record S0, S1, S2 (R93, R101). -/
def decodeRecord (mk : Word → Word → Word → Instr) : List Word → Decoded
  | s0 :: s1 :: s2 :: rest => .command (mk s0 s1 s2) rest
  | _ => .incomplete

/-- The decoder: the opcode alone selects the command (R104, R105). -/
def decode : List Word → Decoded
  | [] => .incomplete
  | c :: ws =>
    match (opcodeOf c).toNat with
    | 0x00 => .command .nop ws
    | 0x01 => .command .render ws
    | 0x02 => decodeRecord (Instr.setSprite (lowHalf c)) ws
    | 0x03 => .command (.getSprite (lowHalf c)) ws
    | 0x04 => decodeBlit (Instr.blitBg (layerField c)) ws
    | 0x05 => decodeBlit Instr.blitSheet ws
    | 0x06 => .command (.writeReg (regField c) (lowHalf c)) ws
    | 0x07 => .command (.readReg (regField c)) ws
    | 0x08 => .command (.readFb (lowHalf c)) ws
    | 0x09 => .command .resetOam ws
    | _ => .illegal (opcodeOf c) ws

/-- The layer bit of format B (R99). -/
def layerBit : LayerId → BitVec 1
  | .bg0 => 0
  | .bg1 => 1

/-- A command word: opcode in [31:24], the format's bits below it (R95). -/
def commandWord (op : Byte) (low : BitVec 24) : Word := op ++ low

/-- The blit payload (R100). -/
def encodeBlit (x y w h : Half) (px : List Colour) : List Word :=
  (y ++ x) :: (h ++ w) :: px.map (fun p => (0#16 ++ p : Word))

/-- The words of a command, with 0 in every bit its format ignores (R96 to R101, R108; log entry 14, safe). -/
def encode : Instr → List Word
  | .nop => [commandWord 0x00 0]
  | .render => [commandWord 0x01 0]
  | .setSprite idx s0 s1 s2 => [commandWord 0x02 (0#8 ++ idx), s0, s1, s2]
  | .getSprite idx => [commandWord 0x03 (0#8 ++ idx)]
  | .blitBg l x y w h px => commandWord 0x04 (0#23 ++ layerBit l) :: encodeBlit x y w h px
  | .blitSheet x y w h px => commandWord 0x05 0 :: encodeBlit x y w h px
  | .writeReg reg value => [commandWord 0x06 (reg ++ value)]
  | .readReg reg => [commandWord 0x07 (reg ++ 0#16)]
  | .readFb k => [commandWord 0x08 (0#8 ++ k)]
  | .resetOam => [commandWord 0x09 0]

/-- The port words of an opcode-table word `w` of `nbits` bits: word `k` holds bits [32k+31 : 32k] and every bit at or above
`nbits` is 0. There are as many words as the command has (DESIGN CHOICE, log entry 17, safe). -/
def tableWords (nbits w : Nat) : List Word :=
  let word (k : Nat) : Word := BitVec.ofNat 32 ((w % 2 ^ nbits) >>> (32 * k))
  (List.range (1 + (payloadWords (word 0) [word 1, word 2]).getD 0)).map word

/-- The instruction the decoder reads from an opcode-table word; none where it refuses. -/
def decodeTableWord (nbits w : Nat) : Option Instr :=
  match decode (tableWords nbits w) with
  | .command i _ => some i
  | .illegal _ _ => none
  | .incomplete => none

end Sys2Proof
end

