-- ==== Sys2Proof/Machine/Objects.lean ====
section
/-! DEFINITION. Machine/Objects.lean: the records the State is made of (sprite descriptors, layers, the global screen state,
the fault status, the implementation parameters), with the spec's own field names. They stand before Config.lean because
one configuration function (XREUSE_FY) takes a sprite. -/

namespace Sys2Proof.Machine

/-- The window logic code (R91): all four codes are defined. -/
inductive WinLogic where
  | xnor | xor | and | or
  deriving DecidableEq, Repr

/-- The window fields one screen of an object has: `win_in`, `win_out`, `win_logic` (R23, R27). -/
structure WinSel where
  drawIn : Bool
  drawOut : Bool
  logic : WinLogic
  deriving DecidableEq, Repr

/-- What decides where a layer or a sprite may write: the fields R23 and R27 give both ("the same window in/out/logic
fields as a sprite"). `mwin` is the main window, `swin` the sub window. -/
structure Gate where
  drawMain : Bool
  drawSub : Bool
  cmath : Bool
  mwin : WinSel
  swin : WinSel
  deriving DecidableEq, Repr

/-- A sprite descriptor `oam[i]` (R23). `x` and `y` hold the 16 bits of a two's-complement number (R12). -/
structure Sprite where
  x : Half
  y : Half
  width : Byte
  height : Byte
  graphicsX : Half
  graphicsY : Half
  enabled : Bool
  flipX : Bool
  flipY : Bool
  priority : Bool
  doubleSize : Bool
  gate : Gate
  deriving DecidableEq, Repr

/-- A background layer `bg[l]` (R27). The scroll fields hold the 16 bits of a two's-complement number. -/
structure Layer where
  enabled : Bool
  gate : Gate
  scrollX : Half
  scrollY : Half
  deriving DecidableEq, Repr

/-- The global screen state `glob` (R28; `fade_enable` by 90_conflicts.md C1). -/
structure Glob where
  defaultMain : Colour
  defaultSub : Colour
  win1Left : Byte
  win1Right : Byte
  win2Left : Byte
  win2Right : Byte
  cmathEnable : Bool
  fadeEnable : Bool
  fadeLevel : Byte
  halfMain : Bool
  doubleMain : Bool
  halfSub : Bool
  doubleSub : Bool
  cmAdd : Bool
  cmSub : Bool
  cmathDefault : Bool
  deriving DecidableEq, Repr

/-- The cause of the first fault since reset (R251). Codes 5 to 15 are never produced, so they have no constructor. -/
inductive Cause where
  | none | illegalOpcode | badRegister | blitOutOfBounds | fbIndexRange
  deriving DecidableEq, Repr

/-- The STATUS register's two fields (R43); its other bits always read 0. -/
structure Status where
  fault : Bool
  cause : Cause
  deriving DecidableEq, Repr

/-- YFLIP_MODE (R11, D10). -/
inductive YFlipMode where
  | independent | xreuse
  deriving DecidableEq, Repr

/-- SHEET_WRAP (R11, D11). -/
inductive SheetWrap where
  | perAxis | linear
  deriving DecidableEq, Repr

/-- BIN_FILTER (R11, D7). -/
inductive BinFilter where
  | drawAndWindow | windowOnly
  deriving DecidableEq, Repr

/-- The implementation parameters of R11, "each a named argument of the model". The three sizes are held as the 4-bit
base-2 logarithms that the hardwired PARAM register reports (R44). -/
structure Params where
  mapLog2 : BitVec 4
  sheetWLog2 : BitVec 4
  sheetHLog2 : BitVec 4
  yflipMode : YFlipMode
  sheetWrap : SheetWrap
  binFilter : BinFilter
  subNeedsOpaque : Bool
  fbByteSwap : Bool
  deriving DecidableEq, Repr

/-- MAP_SIZE, the side of a background map (R11, R61). -/
def Params.mapSize (p : Params) : Nat := 2 ^ p.mapLog2.toNat

/-- SHEET_W, the columns of the sprite sheet (R11, R61). -/
def Params.sheetW (p : Params) : Nat := 2 ^ p.sheetWLog2.toNat

/-- SHEET_H, the rows of the sprite sheet (R11, R61). -/
def Params.sheetH (p : Params) : Nat := 2 ^ p.sheetHLog2.toNat

/-- The window fields with every bit 0 (logic code 0 is XNOR). -/
def WinSel.zero : WinSel := ⟨false, false, .xnor⟩

/-- The gating fields with every bit 0. -/
def Gate.zero : Gate := ⟨false, false, false, .zero, .zero⟩

/-- The default sprite: every field 0 (R24). -/
def Sprite.default : Sprite :=
  { x := 0, y := 0, width := 0, height := 0, graphicsX := 0, graphicsY := 0, enabled := false, flipX := false,
    flipY := false, priority := false, doubleSize := false, gate := .zero }

/-- A layer with every field 0 (R27, R51). -/
def Layer.zero : Layer := { enabled := false, gate := .zero, scrollX := 0, scrollY := 0 }

/-- The global screen state with every field 0 (R28, R51). -/
def Glob.zero : Glob :=
  { defaultMain := 0, defaultSub := 0, win1Left := 0, win1Right := 0, win2Left := 0, win2Right := 0, cmathEnable := false,
    fadeEnable := false, fadeLevel := 0, halfMain := false, doubleMain := false, halfSub := false, doubleSub := false,
    cmAdd := false, cmSub := false, cmathDefault := false }

/-- STATUS = 0x0000: no fault since reset (R43). -/
def Status.clear : Status := ⟨false, .none⟩

end Sys2Proof.Machine
end

