-- ==== Sys2Proof/Config.lean ====
section
/-! DEFINITION. Config.lean: what an implementation fixes. The numbers of R10 are the source's; the parameters of R11 take
the value of the spec's third column; the ones the spec leaves OPEN (SHEET_W, SHEET_H, XREUSE_FY) are opaque constants,
of which nothing can be proved beyond their type (log entries 1 and 2). -/

namespace Sys2Proof

open Machine

/-- SCREEN_W (R10). -/
def Config.screenW : Nat := 240

/-- SCREEN_H (R10). -/
def Config.screenH : Nat := 240

/-- The number of frame-buffer elements, 240 × 240 (R60, R213). -/
def Config.fbSize : Nat := Config.screenW * Config.screenH

/-- CACHE_CAP (R10). -/
def Config.cacheCap : Nat := 16

/-- OPEN (D12), DESIGN CHOICE (log entry 1), safe: SHEET_W is 2 to the power `sheetWCode + 1`; the domain 2^1 .. 2^15 of R11 is the type. -/
opaque Config.sheetWCode : Fin 15

/-- OPEN (D12), DESIGN CHOICE (log entry 1), safe: SHEET_H is 2 to the power `sheetHCode + 1`. -/
opaque Config.sheetHCode : Fin 15

/-- OPEN (D10), DESIGN CHOICE (log entry 2), safe: `XREUSE_FY(s, dx, dy)`, the vertical offset of a `flip_y` sprite when YFLIP_MODE = XREUSE (R167). The source
gives no formula; the result is a non-negative integer, because R66 adds it to a sheet row. -/
opaque Config.xreuseFy : Sprite → Nat → Nat → Nat

/-- The parameters of this hardware (R11, third column): MAP_SIZE = 512, YFLIP_MODE = INDEPENDENT, SHEET_WRAP = PER_AXIS,
BIN_FILTER = DRAW_AND_WINDOW, SUB_NEEDS_OPAQUE = true, FB_BYTE_SWAP = false, and the two OPEN sizes. -/
def Config.params : Params :=
  { mapLog2 := 9
    sheetWLog2 := BitVec.ofNat 4 (Config.sheetWCode.val + 1)
    sheetHLog2 := BitVec.ofNat 4 (Config.sheetHCode.val + 1)
    yflipMode := .independent
    sheetWrap := .perAxis
    binFilter := .drawAndWindow
    subNeedsOpaque := true
    fbByteSwap := false }

end Sys2Proof
end

