-- ==== Sys2Proof/Machine/Memory.lean ====
section
/-! DEFINITION. Machine/Memory.lean: a pixel plane's store and its operations. Each plane is its own address space (R60); an
element of a plane is 16 bits at byte address `2 * index` (R63). The store lists the bytes that are not 0, by strictly
rising address; an unlisted byte reads 0, the reset contents of every plane (R62). Low byte first inside an element, which
nothing in the block can see (DESIGN CHOICE, log entry 4, safe). -/

namespace Sys2Proof.Machine

/-- The store of one pixel plane. -/
abbrev Memory := List Host.Cell

/-- What an unlisted address reads as (R62). -/
abbrev Memory.unlisted : Byte := 0#8

/-- The canonical form: addresses strictly rising, no entry equal to what an unlisted address reads as. -/
abbrev Memory.wf (m : Memory) : Prop :=
  m.Pairwise (fun c d => c.1 < d.1) ∧ ∀ c ∈ m, c.2 ≠ Memory.unlisted

/-- Every listed address is below `n`: the plane has `n` bytes. -/
abbrev Memory.within (n : Nat) (m : Memory) : Prop := ∀ c ∈ m, c.1 < n

/-- One byte of a plane. -/
def Memory.readByte : Memory → Nat → Byte
  | [], _ => Memory.unlisted
  | (k, v) :: m, a => if k = a then v else Memory.readByte m a

/-- The listed bytes of a run that starts at an address. -/
def Memory.cells : Nat → List Byte → Memory
  | _, [] => []
  | a, b :: bs => if b = Memory.unlisted then Memory.cells (a + 1) bs else (a, b) :: Memory.cells (a + 1) bs

/-- Replace the bytes from address `a` on by a run. -/
def Memory.writeBytes (m : Memory) (a : Nat) (bs : List Byte) : Memory :=
  m.filter (fun c => c.1 < a) ++ Memory.cells a bs ++ m.filter (fun c => a + bs.length ≤ c.1)

/-- The two bytes of an element, low byte first. -/
def elemBytes (c : Colour) : List Byte := [slice c 0 8, slice c 8 8]

/-- The element with index `i` (R63). -/
def Memory.readElem (m : Memory) (i : Nat) : Colour := m.readByte (2 * i + 1) ++ m.readByte (2 * i)

/-- Replace a run of elements from index `i` on (R63). -/
def Memory.writeElems (m : Memory) (i : Nat) (cs : List Colour) : Memory :=
  m.writeBytes (2 * i) (cs.flatMap elemBytes)

/-- The element index of `(row, col)` in a plane of width `W` (R63). -/
def planeIndex (W row col : Nat) : Nat := row * W + col

/-- `PlaneRead(P, row, col)` (R63). -/
def Memory.planeRead (m : Memory) (W row col : Nat) : Colour := m.readElem (planeIndex W row col)

/-- `PlaneWrite` of the elements `(row, col)`, `(row, col + 1)`, … of one row (R63). -/
def Memory.planeWriteRow (m : Memory) (W row col : Nat) (cs : List Colour) : Memory :=
  m.writeElems (planeIndex W row col) cs

end Sys2Proof.Machine
end

