-- ==== Sys2Proof/Machine/State.lean ====
section
/-! DEFINITION. Machine/State.lean: the State of the block (R20) as plain data, the reasons a step can stop, and the state
after reset (R51). -/

namespace Sys2Proof.Machine

/-- The port state `port` (R49): Idle, or the command word and the payload words received so far. -/
inductive Port where
  | idle
  | receiving (cmd : Word) (words : List Word)
  deriving DecidableEq, Repr

/-- What the host does to the block (R19, R231, R270), in the order it does it (DESIGN CHOICE, log entry 3). -/
inductive HostInput where
  /-- The host sends one 32-bit word on the command port (R95). -/
  | word (w : Word)
  /-- The reset input is asserted while the block is idle or still receives a payload (R270). -/
  | reset
  /-- The reset input is asserted before the command completed by the words just before it has finished (R270: "abandons any
  command in progress, including a RENDER part way through"; DESIGN CHOICE, log entry 8, unsafe). -/
  | resetInCommand
  /-- An agent other than the host writes the planes or OAM directly (R280); the port cannot express it (log entry 7, safe). -/
  | directWrite
  deriving DecidableEq, Repr

/-- The two sprite caches of a scanline, ordered lists of OAM indices (R45). Their lengths are `len_lo` and `len_hi`. -/
structure Caches where
  lo : List Byte
  hi : List Byte
  deriving DecidableEq, Repr

/-- The working registers of one pixel (R46). -/
structure Work where
  mainColor : Colour
  subColor : Colour
  colorMathFlag : Bool
  deriving DecidableEq, Repr

/-- The transient state a RENDER holds (R45 to R47): scan position, sprite caches, working registers. -/
structure Scan where
  scanY : Nat
  scanX : Nat
  caches : Caches
  work : Work
  deriving DecidableEq, Repr

/-- One FrameOut event (R214): the frame buffer it carries, and FB_BYTE_SWAP, which fixes its byte string (R70; DESIGN CHOICE,
log entry 6, safe). -/
structure FrameOut where
  pixels : Memory
  byteSwap : Bool
  deriving DecidableEq, Repr

/-- The state `S` (R20), the parameters of the chip (R11, R44), and the block's three connections to the outside: what the
host has sent and the block has not yet taken, the response words and the frames the block has sent. -/
structure State where
  /-- The implementation parameters (R11); the sizes among them are the hardwired PARAM register (R44). -/
  params : Params
  /-- The object table (R22). -/
  oam : Vector Sprite 256
  /-- Layer 0 (R27). -/
  bg0 : Layer
  /-- Layer 1 (R27). -/
  bg1 : Layer
  /-- `map[0]` (R61). -/
  map0 : Memory
  /-- `map[1]` (R61). -/
  map1 : Memory
  /-- The sprite sheet (R61). -/
  sheet : Memory
  /-- The global screen state (R28). -/
  glob : Glob
  /-- STATUS (R43). -/
  status : Status
  /-- The frame buffer (R60). -/
  fb : Memory
  /-- The command port (R49). -/
  port : Port
  /-- The transient state of a RENDER; it holds no value outside one (R20, R47, R51). -/
  scan : Option Scan
  /-- What the host does next (the model's own field, DESIGN CHOICE, log entry 3). -/
  input : List HostInput
  /-- The response words sent so far, oldest first (R102; DESIGN CHOICE, log entries 3 and 16, unsafe). -/
  responses : List Word
  /-- The FrameOut events so far, oldest first (R214; DESIGN CHOICE, log entry 3, unsafe). -/
  frames : List FrameOut
  deriving DecidableEq, Repr

/-- The block never stops: a fault of the spec is recorded in STATUS and the block accepts the next command (R250, R258), so
there is no reason to stop here and nobody raises one (DEDUCED, log entry 10, safe). -/
inductive Fault where
  deriving DecidableEq, Repr

/-- Why a step is refused. -/
inductive Refusal where
  /-- Raised by an arm of exec that has no meaning yet; no arm does. Safe. -/
  | notModelled (mnemonic : String)
  /-- Raised by fetch when an agent other than the host writes the planes or OAM directly: "a model must refuse it rather than
  give it a meaning" (R280, D23). Safe. -/
  | secondWriter
  deriving DecidableEq, Repr

/-- The state after reset (R51, R270): OAM of default sprites, every field 0, every plane 0x0000 throughout, port idle, no
transient state. The parameters are the chip's; nothing has been sent either way (log entries 1, 3 and 13). -/
def State.reset : State :=
  { params := Config.params
    oam := Vector.replicate 256 Sprite.default
    bg0 := .zero
    bg1 := .zero
    map0 := []
    map1 := []
    sheet := []
    glob := .zero
    status := .clear
    fb := []
    port := .idle
    scan := none
    input := []
    responses := []
    frames := [] }

end Sys2Proof.Machine
end

