-- ==== Sys2Proof/Machine/Flags.lean ====
section
/-! DEFINITION. Machine/Flags.lean: the words that pack one-bit fields: window logic codes (R91), the sprite flags word (R92),
CMATH_CTRL (R41), BGn_CTRL (R42), STATUS (R43) and PARAM (R44). The block has no arithmetic condition codes (R29): these
fields are all its flags, besides the colour-math flag of R46 that the compositor writes. -/

namespace Sys2Proof.Machine

/-- A one-bit field as a bit: `true` is 1 (R14). -/
abbrev bit (b : Bool) : BitVec 1 := BitVec.ofBool b

/-- The logic a 2-bit code selects (R91). -/
def logicOfCode (c : BitVec 2) : WinLogic :=
  match c.toNat with
  | 0 => .xnor
  | 1 => .xor
  | 2 => .and
  | _ => .or

/-- The 2-bit code of a logic (R91). -/
def codeOfLogic : WinLogic → BitVec 2
  | .xnor => 0
  | .xor => 1
  | .and => 2
  | .or => 3

/-- A window's four bits `{logic, out, in}`, as they stand in the sprite flags word and in BGn_CTRL (R92, R42). -/
def winWord (w : WinSel) : BitVec 4 := codeOfLogic w.logic ++ bit w.drawOut ++ bit w.drawIn

/-- The window fields at bits `[k + 3 : k]` of a word (R92, R42). -/
def winOfWord (v : Half) (k : Nat) : WinSel :=
  { drawIn := v.getLsbD k, drawOut := v.getLsbD (k + 1), logic := logicOfCode (slice v (k + 2) 2) }

/-- The sprite flags word (R92). -/
def flagsWord (s : Sprite) : Half :=
  winWord s.gate.swin ++ winWord s.gate.mwin ++ bit s.doubleSize ++ bit s.priority ++ bit s.gate.cmath ++ bit s.gate.drawSub ++
    bit s.gate.drawMain ++ bit s.flipY ++ bit s.flipX ++ bit s.enabled

/-- The gating fields of a sprite flags word (R92). -/
def gateOfFlags (v : Half) : Gate :=
  { drawMain := v.getLsbD 3, drawSub := v.getLsbD 4, cmath := v.getLsbD 5, mwin := winOfWord v 8, swin := winOfWord v 12 }

/-- CMATH_CTRL (R41). -/
def cmathCtrl (g : Glob) : Half :=
  0#7 ++ bit g.cmathDefault ++ bit g.cmSub ++ bit g.cmAdd ++ bit g.doubleSub ++ bit g.halfSub ++ bit g.doubleMain ++ bit g.halfMain ++
    bit g.fadeEnable ++ bit g.cmathEnable

/-- Store the fields of a CMATH_CTRL value (R41, R50). -/
def setCmathCtrl (g : Glob) (v : Half) : Glob :=
  { g with
    cmathEnable := v.getLsbD 0, fadeEnable := v.getLsbD 1, halfMain := v.getLsbD 2, doubleMain := v.getLsbD 3,
    halfSub := v.getLsbD 4, doubleSub := v.getLsbD 5, cmAdd := v.getLsbD 6, cmSub := v.getLsbD 7, cmathDefault := v.getLsbD 8 }

/-- BGn_CTRL (R42). -/
def bgCtrl (b : Layer) : Half :=
  0#4 ++ winWord b.gate.swin ++ winWord b.gate.mwin ++ bit b.gate.cmath ++ bit b.gate.drawSub ++ bit b.gate.drawMain ++ bit b.enabled

/-- Store the fields of a BGn_CTRL value (R42, R50). -/
def setBgCtrl (b : Layer) (v : Half) : Layer :=
  { b with
    enabled := v.getLsbD 0
    gate :=
      { drawMain := v.getLsbD 1, drawSub := v.getLsbD 2, cmath := v.getLsbD 3, mwin := winOfWord v 4, swin := winOfWord v 8 } }

/-- The cause codes (R251). -/
def causeCode : Cause → BitVec 4
  | .none => 0
  | .illegalOpcode => 1
  | .badRegister => 2
  | .blitOutOfBounds => 3
  | .fbIndexRange => 4

/-- STATUS (R43): bit 0 FAULT, bits [7:4] CAUSE, every other bit 0. -/
def statusWord (t : Status) : Half := 0#8 ++ causeCode t.cause ++ 0#3 ++ bit t.fault

/-- PARAM (R44): the logarithms of SHEET_H, SHEET_W and MAP_SIZE. -/
def paramWord (p : Params) : Half := 0#4 ++ p.sheetHLog2 ++ p.sheetWLog2 ++ p.mapLog2

end Sys2Proof.Machine
end

