-- ==== Sys2Proof/Machine/Operands.lean ====
section
/-! DEFINITION. Machine/Operands.lean: how a command's operands are assembled (R103): the masked OAM index, signed
coordinates, the sprite record (R93, R94), and the register numbers (R40). -/

namespace Sys2Proof.Machine

/-- The OAM index `idx[7:0]`; `idx[15:8]` is ignored (R97). -/
def oamIndex (idx : Half) : Byte := slice idx 0 8

/-- `sext_16`: the integer a two's-complement 16-bit field denotes (R14, R103). -/
abbrev signed (v : Half) : Int := v.toInt

/-- UNPACK_SPRITE (R94). -/
def unpackSprite (s0 s1 s2 : Word) : Sprite :=
  let flags := highHalf s1
  { x := lowHalf s0
    y := highHalf s0
    width := slice s1 0 8
    height := slice s1 8 8
    graphicsX := lowHalf s2
    graphicsY := highHalf s2
    enabled := flags.getLsbD 0
    flipX := flags.getLsbD 1
    flipY := flags.getLsbD 2
    priority := flags.getLsbD 6
    doubleSize := flags.getLsbD 7
    gate := gateOfFlags flags }

/-- PACK_SPRITE, word S0 = {y, x} (R93). -/
def packS0 (s : Sprite) : Word := s.y ++ s.x

/-- PACK_SPRITE, word S1 = {flags, height, width} (R93). -/
def packS1 (s : Sprite) : Word := flagsWord s ++ s.height ++ s.width

/-- PACK_SPRITE, word S2 = {graphics_y, graphics_x} (R93). -/
def packS2 (s : Sprite) : Word := s.graphicsY ++ s.graphicsX

/-- The registers of the map of R40. -/
inductive Reg where
  | mainColor | subColor | win1Left | win1Right | win2Left | win2Right | cmathCtrl | fadeLevel
  | bg0Ctrl | bg0ScrollX | bg0ScrollY | bg1Ctrl | bg1ScrollX | bg1ScrollY
  | status | param
  deriving DecidableEq, Repr

/-- The register a number names; `none` for a reserved number (R40). -/
def regOfNumber (n : Byte) : Option Reg :=
  match n.toNat with
  | 0x00 => some .mainColor
  | 0x01 => some .subColor
  | 0x02 => some .win1Left
  | 0x03 => some .win1Right
  | 0x04 => some .win2Left
  | 0x05 => some .win2Right
  | 0x06 => some .cmathCtrl
  | 0x07 => some .fadeLevel
  | 0x10 => some .bg0Ctrl
  | 0x11 => some .bg0ScrollX
  | 0x12 => some .bg0ScrollY
  | 0x14 => some .bg1Ctrl
  | 0x15 => some .bg1ScrollX
  | 0x16 => some .bg1ScrollY
  | 0x20 => some .status
  | 0x21 => some .param
  | _ => none

/-- The effective width, doubled with the double-size flag (R25). -/
def effW (s : Sprite) : Nat := if s.doubleSize then 2 * s.width.toNat else s.width.toNat

/-- The effective height (R25). -/
def effH (s : Sprite) : Nat := if s.doubleSize then 2 * s.height.toNat else s.height.toNat

end Sys2Proof.Machine
end

