-- ==== Sys2Proof/Machine/Ops.lean ====
section
/-! DEFINITION. Machine/Ops.lean: the named operations over the State: one update per component, raising a fault (R250), the
response port (R102), register reads and writes (R40, R50), the reset operation (R270), and the blit into a plane (R224,
R225). -/

namespace Sys2Proof.Machine

/-- A command is taken from the port: the port goes idle and the rest of the host's input stays (R230). -/
def State.accept (s : State) (rest : List HostInput) : State := { s with port := .idle, input := rest }

/-- The port holds what has been received and waits (R49). -/
def State.setPort (s : State) (p : Port) (rest : List HostInput) : State := { s with port := p, input := rest }

/-- `Respond(w)`: append a word to the response port. -/
def State.respond (s : State) (w : Word) : State := { s with responses := s.responses ++ [w] }

def State.setStatus (s : State) (t : Status) : State := { s with status := t }

def State.setGlob (s : State) (g : Glob) : State := { s with glob := g }

def State.setFb (s : State) (m : Memory) : State := { s with fb := m }

def State.setSheet (s : State) (m : Memory) : State := { s with sheet := m }

def State.setScan (s : State) (k : Option Scan) : State := { s with scan := k }

def State.emitFrame (s : State) (f : FrameOut) : State := { s with frames := s.frames ++ [f] }

/-- `bg[l]` (R27). -/
def State.layer (s : State) : LayerId → Layer
  | .bg0 => s.bg0
  | .bg1 => s.bg1

def State.setLayer (s : State) (l : LayerId) (b : Layer) : State :=
  match l with
  | .bg0 => { s with bg0 := b }
  | .bg1 => { s with bg1 := b }

/-- `map[l]` (R61). -/
def State.map (s : State) : LayerId → Memory
  | .bg0 => s.map0
  | .bg1 => s.map1

def State.setMap (s : State) (l : LayerId) (m : Memory) : State :=
  match l with
  | .bg0 => { s with map0 := m }
  | .bg1 => { s with map1 := m }

/-- `oam[i]` (R22): an 8-bit index is always in range. -/
def State.sprite (s : State) (i : Byte) : Sprite := s.oam[i.toNat]'i.isLt

/-- Replace the whole entry `oam[i]` (R72, R222). -/
def State.setSprite (s : State) (i : Byte) (p : Sprite) : State := { s with oam := s.oam.set i.toNat p i.isLt }

/-- Every OAM entry is the default sprite (R24, R229). -/
def State.clearOam (s : State) : State := { s with oam := Vector.replicate 256 Sprite.default }

/-- Taking a fault: `raise Fault(cause)` (R250). The first cause since reset stays (R257); nothing else changes. No control is
transferred and nothing is saved (R258), and no command returns from a fault (R259): only a reset clears STATUS. -/
def raiseFault (c : Cause) (s : State) : State :=
  s.setStatus { fault := true, cause := if s.status.fault then s.status.cause else c }

/-- The reset operation (R270): every piece of the block's state takes its value of R51. The chip's parameters are not state
the reset can change (R44); what has already left the block has left it, and what the host does next is the host's
(DESIGN CHOICE, log entry 3, unsafe). -/
def State.resetBlock (s : State) (rest : List HostInput) : State :=
  { State.reset with params := s.params, input := rest, responses := s.responses, frames := s.frames }

/-- The value of a register, reserved bits 0 (R40, R50). -/
def State.readReg (s : State) : Reg → Half
  | .mainColor => s.glob.defaultMain
  | .subColor => s.glob.defaultSub
  | .win1Left => 0#8 ++ s.glob.win1Left
  | .win1Right => 0#8 ++ s.glob.win1Right
  | .win2Left => 0#8 ++ s.glob.win2Left
  | .win2Right => 0#8 ++ s.glob.win2Right
  | .cmathCtrl => Machine.cmathCtrl s.glob
  | .fadeLevel => 0#8 ++ s.glob.fadeLevel
  | .bg0Ctrl => bgCtrl s.bg0
  | .bg0ScrollX => s.bg0.scrollX
  | .bg0ScrollY => s.bg0.scrollY
  | .bg1Ctrl => bgCtrl s.bg1
  | .bg1ScrollX => s.bg1.scrollX
  | .bg1ScrollY => s.bg1.scrollY
  | .status => statusWord s.status
  | .param => paramWord s.params

/-- Write a register: the value is masked to the register's fields, and a write to STATUS or PARAM changes nothing (R50). -/
def State.writeReg (s : State) (r : Reg) (v : Half) : State :=
  match r with
  | .mainColor => s.setGlob { s.glob with defaultMain := v }
  | .subColor => s.setGlob { s.glob with defaultSub := v }
  | .win1Left => s.setGlob { s.glob with win1Left := slice v 0 8 }
  | .win1Right => s.setGlob { s.glob with win1Right := slice v 0 8 }
  | .win2Left => s.setGlob { s.glob with win2Left := slice v 0 8 }
  | .win2Right => s.setGlob { s.glob with win2Right := slice v 0 8 }
  | .cmathCtrl => s.setGlob (setCmathCtrl s.glob v)
  | .fadeLevel => s.setGlob { s.glob with fadeLevel := slice v 0 8 }
  | .bg0Ctrl => s.setLayer .bg0 (setBgCtrl s.bg0 v)
  | .bg0ScrollX => s.setLayer .bg0 { s.bg0 with scrollX := v }
  | .bg0ScrollY => s.setLayer .bg0 { s.bg0 with scrollY := v }
  | .bg1Ctrl => s.setLayer .bg1 (setBgCtrl s.bg1 v)
  | .bg1ScrollX => s.setLayer .bg1 { s.bg1 with scrollX := v }
  | .bg1ScrollY => s.setLayer .bg1 { s.bg1 with scrollY := v }
  | .status => s
  | .param => s

/-- The writes of a blit into a plane of width `W`, row by row from `(y, x)` on: pixel `k` goes to row `y + k / w`, column
`x + k mod w` (R100, R224). Total on a pixel list of any length (DESIGN CHOICE, log entry 15, safe). -/
def blitRows (W x w : Nat) : (y h : Nat) → List Colour → Memory → Memory
  | _, 0, _, m => m
  | y, h + 1, px, m => blitRows W x w (y + 1) h (px.drop w) (m.planeWriteRow W y x (px.take w))

end Sys2Proof.Machine
end

