-- ==== Sys2Proof/Machine/ColorMath.lean ====
section
/-! DEFINITION. Machine/ColorMath.lean: the colour-math blender (44_color_math.md). Channel values are exact non-negative
integers (R14, R192). -/

namespace Sys2Proof.Machine

/-- `R(c) = c[15:11]` (R17). -/
def red (c : Colour) : Nat := (slice c 11 5).toNat

/-- `G(c) = c[10:5]` (R17). -/
def green (c : Colour) : Nat := (slice c 5 6).toNat

/-- `B(c) = c[4:0]` (R17). -/
def blue (c : Colour) : Nat := (slice c 0 5).toNat

/-- `pack(r, g, b) = {r[4:0], g[5:0], b[4:0]}` (R17, R199). -/
def packColour (r g b : Nat) : Colour := BitVec.ofNat 5 r ++ BitVec.ofNat 6 g ++ BitVec.ofNat 5 b

/-- Doubling: shift left 1, masked to the channel width (R193 (a), R194). -/
def doubleChannel (on : Bool) (cw a : Nat) : Nat := if on then (a <<< 1) % 2 ^ cw else a

/-- Halving: shift right 1 (R193 (b), R194). -/
def halveChannel (on : Bool) (a : Nat) : Nat := if on then a >>> 1 else a

/-- The saturating add (R195). -/
def addChannel (on : Bool) (cw a b : Nat) : Nat := if on then min (a + b) (2 ^ cw - 1) else a

/-- The saturating subtract `max(a - b, 0)` (R196). -/
def subChannel (on : Bool) (a b : Nat) : Nat := if on then a - b else a

/-- Fade: `(a * fade_level) >> 8`, masked to the channel width (R198). -/
def fadeChannel (on : Bool) (level : Byte) (cw a : Nat) : Nat := if on then ((a * level.toNat) >>> 8) % 2 ^ cw else a

/-- Steps (a) to (e) on one channel of width `cw`, in the fixed order (R193 to R197). -/
def mathChannel (g : Glob) (cw a b : Nat) : Nat :=
  let a := halveChannel g.halfMain (doubleChannel g.doubleMain cw a)
  let b := halveChannel g.halfSub (doubleChannel g.doubleSub cw b)
  subChannel g.cmSub (addChannel g.cmAdd cw a b) b

/-- One channel of BLEND (R190). -/
def blendChannel (g : Glob) (useCmath : Bool) (cw a b : Nat) : Nat :=
  fadeChannel g.fadeEnable g.fadeLevel cw (if useCmath then mathChannel g cw a b else a)

/-- BLEND(m, s, f) (R190, R191). -/
def blend (g : Glob) (m s : Colour) (f : Bool) : Colour :=
  let useCmath := g.cmathEnable && f
  if !useCmath && !g.fadeEnable then m
  else
    packColour (blendChannel g useCmath 5 (red m) (red s)) (blendChannel g useCmath 6 (green m) (green s))
      (blendChannel g useCmath 5 (blue m) (blue s))

end Sys2Proof.Machine
end

