-- ==== Sys2Proof/Machine/Binner.lean ====
section
/-! DEFINITION. Machine/Binner.lean: the sprite binner (41_sprite_binner.md). -/

namespace Sys2Proof.Machine

/-- VISIBLE_ANY(s) under either BIN_FILTER (R132). -/
def visibleAny (f : BinFilter) (s : Sprite) : Bool :=
  match f with
  | .drawAndWindow =>
    (s.gate.drawMain && (s.gate.mwin.drawIn || s.gate.mwin.drawOut)) || (s.gate.drawSub && (s.gate.swin.drawIn || s.gate.swin.drawOut))
  | .windowOnly => s.gate.mwin.drawIn || s.gate.mwin.drawOut || s.gate.swin.drawIn || s.gate.swin.drawOut

/-- The vertical test `s.y <= y < s.y + eff_h(s)` on exact integers (R133). -/
def coversRow (s : Sprite) (y : Nat) : Bool := decide (signed s.y ≤ (y : Int)) && decide ((y : Int) < signed s.y + (effH s : Int))

/-- ELIG(i, y): enabled, visible on some screen, and on the row (R131 to R133, R136). -/
def eligible (f : BinFilter) (y : Nat) (s : Sprite) : Bool := s.enabled && visibleAny f s && coversRow s y

/-- Append an index to its priority class, if that list holds fewer than 16 entries (R134). -/
def binAppend (priority : Bool) (i : Byte) (c : Caches) : Caches :=
  if priority then
    if c.hi.length < Config.cacheCap then { c with hi := c.hi ++ [i] } else c
  else
    if c.lo.length < Config.cacheCap then { c with lo := c.lo ++ [i] } else c

/-- The scan of OAM from index `i` on, in ascending order, with the early stop of R135 (R130). -/
def binScan (f : BinFilter) (y : Nat) : List Sprite → Nat → Caches → Caches
  | [], _, c => c
  | s :: ss, i, c =>
    if c.lo.length = Config.cacheCap ∧ c.hi.length = Config.cacheCap then c
    else if eligible f y s then binScan f y ss (i + 1) (binAppend s.priority (BitVec.ofNat 8 i) c)
    else binScan f y ss (i + 1) c

/-- BIN(y) (R130). -/
def bin (s : State) (y : Nat) : Caches := binScan s.params.binFilter y s.oam.toList 0 { lo := [], hi := [] }

end Sys2Proof.Machine
end

