-- ==== Sys2Proof/Machine/Window.lean ====
section
/-! DEFINITION. Machine/Window.lean: the window evaluator (42_window_evaluator.md). -/

namespace Sys2Proof.Machine

/-- The logic result `L` (R151, R152). -/
def windowLogic : WinLogic → Bool → Bool → Bool
  | .xnor, a, b => a == b
  | .xor, a, b => a != b
  | .and, a, b => a && b
  | .or, a, b => a || b

/-- WINDOW(logic, inA, inB, drawIn, drawOut) (R150). -/
def window (logic : WinLogic) (inA inB drawIn drawOut : Bool) : Bool :=
  let l := windowLogic logic inA inB
  (l && drawIn) || (!l && drawOut)

/-- Membership of screen column `x` in window 1 (R48). -/
def inA (g : Glob) (x : Nat) : Bool := decide (g.win1Left.toNat ≤ x) && decide (x ≤ g.win1Right.toNat)

/-- Membership of screen column `x` in window 2 (R48). -/
def inB (g : Glob) (x : Nat) : Bool := decide (g.win2Left.toNat ≤ x) && decide (x ≤ g.win2Right.toNat)

/-- MAIN_WIN and SUB_WIN: the window test of one screen of an object (R153). -/
def windowAt (g : Glob) (w : WinSel) (x : Nat) : Bool := window w.logic (inA g x) (inB g x) w.drawIn w.drawOut

end Sys2Proof.Machine
end

