-- ==== Sys2Proof/Machine/Compositor.lean ====
section
/-! DEFINITION. Machine/Compositor.lean: the layer compositor (43_layer_compositor.md). Each step maps the working registers
of the pixel to the working registers after it. -/

namespace Sys2Proof.Machine

/-- Pixel start: the working registers take the global defaults (R160). -/
def pixelStart (g : Glob) : Work :=
  { mainColor := g.defaultMain, subColor := g.defaultSub, colorMathFlag := g.cmathDefault }

/-- The main write of a layer or a sprite with sample `c` (R162, R168). -/
def paintMain (g : Glob) (x : Nat) (o : Gate) (c : Colour) (w : Work) : Work :=
  if c ≠ 0 ∧ o.drawMain ∧ windowAt g o.mwin x then { w with mainColor := c, colorMathFlag := o.cmath } else w

/-- The sub write of a layer or a sprite with sample `c` (R163, R169). -/
def paintSub (needsOpaque : Bool) (g : Glob) (x : Nat) (o : Gate) (c : Colour) (w : Work) : Work :=
  if (c ≠ 0 ∨ needsOpaque = false) ∧ o.drawSub ∧ windowAt g o.swin x then { w with subColor := c } else w

/-- Both writes of an object; neither touches what the other writes (R163). -/
def paint (s : State) (x : Nat) (o : Gate) (c : Colour) (w : Work) : Work :=
  paintSub s.params.subNeedsOpaque s.glob x o c (paintMain s.glob x o c w)

/-- `(v + scroll) mod MAP_SIZE` on exact integers, floor modulus (R64, R65). -/
def scrolled (p : Params) (v : Nat) (scroll : Half) : Nat := (((v : Int) + signed scroll) % (p.mapSize : Int)).toNat

/-- The background sample of pixel `(x, y)` (R64). -/
def bgSample (s : State) (l : LayerId) (x y : Nat) : Colour :=
  (s.map l).planeRead s.params.mapSize (scrolled s.params y (s.layer l).scrollY) (scrolled s.params x (s.layer l).scrollX)

/-- BG_STEP(l, x, y) (R161, R164). -/
def bgStep (s : State) (l : LayerId) (x y : Nat) (w : Work) : Work :=
  if (s.layer l).enabled then paint s x (s.layer l).gate (bgSample s l x y) w else w

/-- SHEET_SAMPLE(r, c) under either SHEET_WRAP (R66). -/
def sheetSample (s : State) (r c : Nat) : Colour :=
  match s.params.sheetWrap with
  | .perAxis => s.sheet.planeRead s.params.sheetW (r % s.params.sheetH) (c % s.params.sheetW)
  | .linear => s.sheet.readElem ((r * s.params.sheetW + c) % (s.params.sheetW * s.params.sheetH))

/-- `fx`: the horizontal offset, mirrored with `flip_x` (R167). -/
def flipX (p : Sprite) (dx : Nat) : Nat := if p.flipX then effW p - 1 - dx else dx

/-- FLIPY(s, dx, dy) under either YFLIP_MODE (R167). -/
def flipY (mode : YFlipMode) (p : Sprite) (dx dy : Nat) : Nat :=
  if p.flipY then
    match mode with
    | .independent => effH p - 1 - dy
    | .xreuse => Config.xreuseFy p dx dy
  else dy

/-- The halving of an offset under the double-size flag (R167). -/
def halveOffset (p : Sprite) (f : Nat) : Nat := if p.doubleSize then f >>> 1 else f

/-- The sheet sample of sprite `p` at offsets `dx`, `dy` from its top left corner (R165). -/
def spriteSample (s : State) (p : Sprite) (dx dy : Nat) : Colour :=
  sheetSample s (p.graphicsY.toNat + halveOffset p (flipY s.params.yflipMode p dx dy)) (p.graphicsX.toNat + halveOffset p (flipX p dx))

/-- The horizontal extent `0 <= x - s.x < eff_w(s)` on exact integers (R166). -/
def coversCol (p : Sprite) (x : Nat) : Bool := decide (signed p.x ≤ (x : Int)) && decide ((x : Int) < signed p.x + (effW p : Int))

/-- SPRITE_STEP for one cached sprite (R165). `dx` and `dy` are not negative: R166 tests `dx`, and R171 gives `dy`. -/
def spriteStepOne (s : State) (x y : Nat) (w : Work) (i : Byte) : Work :=
  let p := s.sprite i
  if coversCol p x then
    paint s x p.gate (spriteSample s p ((x : Int) - signed p.x).toNat ((y : Int) - signed p.y).toNat) w
  else w

/-- SPRITE_STEP(cache, len, x, y): the cached sprites in cache order (R165). -/
def spriteStep (s : State) (cache : List Byte) (x y : Nat) (w : Work) : Work := cache.foldl (spriteStepOne s x y) w

/-- COMPOSITE(x, y): BG0, the low sprites, BG1, the high sprites (R170). -/
def composite (s : State) (c : Caches) (x y : Nat) : Work :=
  spriteStep s c.hi x y (bgStep s .bg1 x y (spriteStep s c.lo x y (bgStep s .bg0 x y (pixelStart s.glob))))

end Sys2Proof.Machine
end

