-- ==== Sys2Proof/Machine/Frame.lean ====
section
/-! DEFINITION. Machine/Frame.lean: the frame renderer (45_frame_renderer.md). A RENDER goes row by row; the transient state of
R45 to R47 stands in the State's `scan` while it runs. A row's 240 elements are stored together at the end of the row, which
nothing can tell from storing them one by one (R213; DEDUCED, log entry 5, safe). -/

namespace Sys2Proof.Machine

/-- The pixel of working registers `w` (R190, R199). -/
def blendWork (g : Glob) (w : Work) : Colour := blend g w.mainColor w.subColor w.colorMathFlag

/-- A row starts: the scan position is `(y, 0)` and the caches are BIN(y)'s (R210, R211). -/
def beginRow (s : State) (y : Nat) : State :=
  s.setScan (some { scanY := y, scanX := 0, caches := bin s y, work := pixelStart s.glob })

/-- COMPOSITE at column `x` of the row being scanned, on the transient state (R210). -/
def scanPixel (s : State) (k : Scan) (x : Nat) : Scan :=
  { k with scanX := x, work := composite s k.caches x k.scanY }

/-- The pixels of the row being scanned, by ascending column (R210). -/
def rowPixels (s : State) (k : Scan) : List Colour :=
  (List.range Config.screenW).map (fun x => blendWork s.glob (scanPixel s k x).work)

/-- The row's pixels go to `fb[scan_y * 240 + x]`, and the scan position is at the row's last pixel (R210, R212). -/
def finishRow (s : State) : State :=
  match s.scan with
  | none => s
  | some k =>
    (s.setFb (s.fb.planeWriteRow Config.screenW k.scanY 0 (rowPixels s k))).setScan (some (scanPixel s k (Config.screenW - 1)))

/-- One scanline of RENDER_FRAME (R210). -/
def scanline (s : State) (y : Nat) : State := finishRow (beginRow s y)

/-- RENDER_FRAME(): rows 0 to 239, then the FrameOut event, after which no transient state is left (R210, R214, R47). -/
def renderFrame (s : State) : State :=
  let t := (List.range Config.screenH).foldl scanline s
  (t.emitFrame { pixels := t.fb, byteSwap := t.params.fbByteSwap }).setScan none

/-- The two bytes a pixel contributes to the frame image (R70). -/
def pixelBytes (byteSwap : Bool) (c : Colour) : List Byte :=
  if byteSwap then [slice c 8 8, slice c 0 8] else [slice c 0 8, slice c 8 8]

/-- The byte string a FrameOut event delivers to the display sink: the 57600 elements in row-major order (R70, R214). -/
def FrameOut.bytes (f : FrameOut) : List Byte :=
  (List.range Config.fbSize).flatMap (fun k => pixelBytes f.byteSwap (f.pixels.readElem k))

end Sys2Proof.Machine
end

