-- ==== Sys2Proof/Machine/Commands.lean ====
section
/-! DEFINITION. Machine/Commands.lean: the meaning of every command (46_commands.md). Each completes: what the spec calls a
fault is recorded in STATUS and the block goes on (R250). -/

namespace Sys2Proof.Machine

/-- NOP (R220): `skip`. -/
def execNop (s : State) : Host.Outcome State Fault Refusal := .next s

/-- RENDER (R221): `RENDER_FRAME()`. -/
def execRender (s : State) : Host.Outcome State Fault Refusal := .next (renderFrame s)

/-- SET_SPRITE (R222): the whole entry `oam[idx[7:0]]` is replaced. -/
def execSetSprite (idx : Half) (s0 s1 s2 : Word) (s : State) : Host.Outcome State Fault Refusal :=
  .next (s.setSprite (oamIndex idx) (unpackSprite s0 s1 s2))

/-- GET_SPRITE (R223): the three words of `oam[idx[7:0]]`. -/
def execGetSprite (idx : Half) (s : State) : Host.Outcome State Fault Refusal :=
  let p := s.sprite (oamIndex idx)
  .next (((s.respond (packS0 p)).respond (packS1 p)).respond (packS2 p))

/-- BLIT_BG (R224, R255). -/
def execBlitBg (l : LayerId) (x y w h : Half) (px : List Colour) (s : State) : Host.Outcome State Fault Refusal :=
  if w.toNat = 0 ∨ h.toNat = 0 then .next s
  else if x.toNat + w.toNat > s.params.mapSize ∨ y.toNat + h.toNat > s.params.mapSize then .next (raiseFault .blitOutOfBounds s)
  else .next (s.setMap l (blitRows s.params.mapSize x.toNat w.toNat y.toNat h.toNat px (s.map l)))

/-- BLIT_SHEET (R225, R255). -/
def execBlitSheet (x y w h : Half) (px : List Colour) (s : State) : Host.Outcome State Fault Refusal :=
  if w.toNat = 0 ∨ h.toNat = 0 then .next s
  else if x.toNat + w.toNat > s.params.sheetW ∨ y.toNat + h.toNat > s.params.sheetH then .next (raiseFault .blitOutOfBounds s)
  else .next (s.setSheet (blitRows s.params.sheetW x.toNat w.toNat y.toNat h.toNat px s.sheet))

/-- WRITE_REG (R226, R254). -/
def execWriteReg (reg : Byte) (value : Half) (s : State) : Host.Outcome State Fault Refusal :=
  match regOfNumber reg with
  | some r => .next (s.writeReg r value)
  | none => .next (raiseFault .badRegister s)

/-- READ_REG (R227, R254). -/
def execReadReg (reg : Byte) (s : State) : Host.Outcome State Fault Refusal :=
  match regOfNumber reg with
  | some r => .next (s.respond (0#16 ++ s.readReg r))
  | none => .next (raiseFault .badRegister (s.respond 0))

/-- READ_FB (R228, R256). -/
def execReadFb (k : Half) (s : State) : Host.Outcome State Fault Refusal :=
  if k.toNat < Config.fbSize then .next (s.respond (0#16 ++ s.fb.readElem k.toNat))
  else .next (raiseFault .fbIndexRange (s.respond 0))

/-- RESET_OAM (R229). -/
def execResetOam (s : State) : Host.Outcome State Fault Refusal := .next s.clearOam

end Sys2Proof.Machine
end

