-- ==== Sys2Proof/Machine/Dispatch.lean ====
section
/-! DEFINITION. Machine/Dispatch.lean: one arm per command. -/

namespace Sys2Proof.Machine

def exec (i : Instr) (s : State) : Host.Outcome State Fault Refusal :=
  match i with
  | .nop => Sys2Proof.Machine.execNop s
  | .render => Sys2Proof.Machine.execRender s
  | .setSprite idx s0 s1 s2 => Sys2Proof.Machine.execSetSprite idx s0 s1 s2 s
  | .getSprite idx => Sys2Proof.Machine.execGetSprite idx s
  | .blitBg l x y w h px => Sys2Proof.Machine.execBlitBg l x y w h px s
  | .blitSheet x y w h px => Sys2Proof.Machine.execBlitSheet x y w h px s
  | .writeReg reg value => Sys2Proof.Machine.execWriteReg reg value s
  | .readReg reg => Sys2Proof.Machine.execReadReg reg s
  | .readFb k => Sys2Proof.Machine.execReadFb k s
  | .resetOam => Sys2Proof.Machine.execResetOam s

end Sys2Proof.Machine
end

