-- ==== Sys2Proof/Machine/Fetch.lean ====
section
/-! DEFINITION. Machine/Fetch.lean: how the block takes the next command from its port (R49, R95, R230), and what a reset (R270)
or a second writer (R280) among the host's actions does to it. -/

namespace Sys2Proof.Machine

/-- The words the port has received of the command it holds (R49). -/
def Port.words : Port → List Word
  | .idle => []
  | .receiving c ws => c :: ws

/-- The port state that holds these words (R49). -/
def Port.ofWords : List Word → Port
  | [] => .idle
  | c :: ws => .receiving c ws

/-- The words the host sends before it does anything else. -/
def leadingWords : List HostInput → List Word
  | .word w :: r => w :: leadingWords r
  | _ => []

/-- What the host does after those words. -/
def afterWords : List HostInput → List HostInput
  | .word _ :: r => afterWords r
  | r => r

/-- What a step finds at the port. -/
inductive Fetched where
  /-- A complete command; the rest is the host's input after it. -/
  | command (i : Instr) (rest : List HostInput)
  /-- A command word with a reserved opcode (R253). -/
  | illegal (rest : List HostInput)
  /-- No complete command: the port waits with the words it has (R49, R267). -/
  | wait (port : Port) (rest : List HostInput)
  /-- The reset input is asserted; a command in progress is abandoned (R270). -/
  | reset (rest : List HostInput)
  /-- Another agent writes the state directly (R280). -/
  | secondWriter
  deriving DecidableEq, Repr

/-- A reset or a second writer that comes before the command just completed has finished takes its place: `left` are the words
the host sent beyond the command, `evs` what it does after its words (R270, R280). -/
def cutShort (left : List Word) (evs : List HostInput) (f : Fetched) : Fetched :=
  match left, evs with
  | [], .resetInCommand :: r => .reset r
  | [], .directWrite :: _ => .secondWriter
  | _, _ => f

/-- The fetch of the words `ws` (the port's and then the host's), followed by the host's `evs`. -/
def fetchFrom (ws : List Word) (evs : List HostInput) : Fetched :=
  match decode ws with
  | .command i left => cutShort left evs (.command i (left.map .word ++ evs))
  | .illegal _ left => cutShort left evs (.illegal (left.map .word ++ evs))
  | .incomplete =>
    match evs with
    | .reset :: r => .reset r
    | .resetInCommand :: r => .reset r
    | .directWrite :: _ => .secondWriter
    | r => .wait (Port.ofWords ws) r

/-- What a step finds: the words received so far and those the host has sent since (R49, R101). -/
def fetch (s : State) : Fetched := fetchFrom (s.port.words ++ leadingWords s.input) (afterWords s.input)

/-- Whether an action of the host cuts short the command whose words stand just before it. -/
def HostInput.cuts : HostInput → Bool
  | .resetInCommand => true
  | .directWrite => true
  | .word _ => false
  | .reset => false

end Sys2Proof.Machine
end

