-- ==== Sys2Proof/Machine/Step.lean ====
section
/-! DEFINITION. Machine/Step.lean: one step of the block: it takes one whole command from the port and runs it to completion
(R74, R230), or records an illegal opcode (R253), or waits (R49, R267), or resets (R270). -/

namespace Sys2Proof.Machine

/-- One step. -/
def step (s : State) : Host.Outcome State Fault Refusal :=
  match fetch s with
  | .command i rest => exec i (s.accept rest)
  | .illegal rest => .next (raiseFault .illegalOpcode (s.accept rest))
  | .wait p rest => .next (s.setPort p rest)
  | .reset rest => .next (s.resetBlock rest)
  | .secondWriter => .refused .secondWriter

/-- The opcode-table word `w` of `nbits` bits stands at the command port as the next command: the port is idle, and the host
sends the command's words before anything else it does. An action that would cut that command short is dropped. -/
def State.withFetchWord (s : State) (nbits w : Nat) : State :=
  { s with port := .idle, input := (tableWords nbits w).map .word ++ s.input.dropWhile HostInput.cuts }

end Sys2Proof.Machine
end

