-- ==== Sys2Proof/Safety.lean ====
section
/-! DEFINITION. Safety.lean: the terms claims use: a state without a recorded fault (R260), a run that ends in one, and the
invariant of the block. -/

namespace Sys2Proof.Machine

/-- No fault since reset: the premise R260 asks of a claim about the reference. -/
abbrev State.NoFault (s : State) : Prop := s.status.fault = false

/-- `n` steps from `s` end in `t` and no fault has been recorded (R260). -/
def SafeRun (n : Nat) (s t : State) : Prop := core.run n s = .next t ∧ t.NoFault

/-- The bytes of a background map (R60, R63). -/
def Params.mapBytes (p : Params) : Nat := 2 * (p.mapSize * p.mapSize)

/-- The bytes of the sprite sheet (R60, R63). -/
def Params.sheetBytes (p : Params) : Nat := 2 * (p.sheetH * p.sheetW)

/-- The bytes of the frame buffer, 115200 (R70). -/
def fbBytes : Nat := 2 * Config.fbSize

/-- A plane's store is canonical and inside the plane. -/
abbrev Memory.ok (n : Nat) (m : Memory) : Prop := m.wf ∧ m.within n

/-- Everything a RENDER reads: the parameters, OAM, the layers, the maps, the sheet and the global state (R75, R210). -/
def State.pipelineInputs (s : State) : Params × Vector Sprite 256 × (Layer × Layer) × (Memory × Memory) × Memory × Glob :=
  (s.params, s.oam, (s.bg0, s.bg1), (s.map0, s.map1), s.sheet, s.glob)

/-- The pixel RENDER computes for `(x, y)`: BLEND of COMPOSITE with the caches of BIN(y) (R210). -/
def framePixel (s : State) (x y : Nat) : Colour := blendWork s.glob (composite s (bin s y) x y)

/-- What holds of the block between two commands, at reset and after every step. -/
structure Inv (s : State) : Prop where
  /-- Each plane is canonical and holds nothing outside its size (R60). -/
  map0_ok : s.map0.ok s.params.mapBytes
  map1_ok : s.map1.ok s.params.mapBytes
  sheet_ok : s.sheet.ok s.params.sheetBytes
  fb_ok : s.fb.ok fbBytes
  /-- Every frame sent is a whole frame buffer (R214). -/
  frames_ok : ∀ f ∈ s.frames, f.pixels.ok fbBytes
  /-- The port never holds a complete command between steps (R49). -/
  port_partial : decode s.port.words = .incomplete
  /-- CAUSE is 0 exactly when FAULT is 0 (R43). -/
  status_ok : s.status.fault = false ↔ s.status.cause = .none
  /-- No transient state is held outside a RENDER (R20, R47). -/
  scan_none : s.scan = none

end Sys2Proof.Machine
end

