-- ==== Sys2Proof/Certificates/Slice0/Obligations.lean ====
section
/-! DEFINITION. Certificates/Slice0/Obligations.lean: the statements about the model, each from the spec's rules. The helper
definitions before them say which components a command may change, which cause a command raises (R251), and which bits of a
register hold a field (R40 to R44), all from the spec's text and not from the meanings. -/

open Sys2Proof Sys2Proof.Machine

/-- The components of the State that a frame talks about. -/
inductive Sys2Proof.Claims.Part where
  | oam | bg0 | bg1 | map0 | map1 | sheet | glob | status | fb | port | scan | input | responses | frames
  deriving DecidableEq, Repr

/-- A component is the same in both states; of a plane, every byte of it. -/
def Sys2Proof.Claims.Unchanged : Sys2Proof.Claims.Part → State → State → Prop
  | .oam, s, t => ∀ i, t.sprite i = s.sprite i
  | .bg0, s, t => t.bg0 = s.bg0
  | .bg1, s, t => t.bg1 = s.bg1
  | .map0, s, t => ∀ a, t.map0.readByte a = s.map0.readByte a
  | .map1, s, t => ∀ a, t.map1.readByte a = s.map1.readByte a
  | .sheet, s, t => ∀ a, t.sheet.readByte a = s.sheet.readByte a
  | .glob, s, t => t.glob = s.glob
  | .status, s, t => t.status = s.status
  | .fb, s, t => ∀ a, t.fb.readByte a = s.fb.readByte a
  | .port, s, t => t.port = s.port
  | .scan, s, t => t.scan = s.scan
  | .input, s, t => t.input = s.input
  | .responses, s, t => t.responses = s.responses
  | .frames, s, t => t.frames = s.frames

/-- Every component but those named is unchanged, the parameters too. -/
def Sys2Proof.Claims.OnlyChanges (ps : List Sys2Proof.Claims.Part) (s t : State) : Prop :=
  t.params = s.params ∧ ∀ p, p ∉ ps → Sys2Proof.Claims.Unchanged p s t

open Sys2Proof.Claims

/-- The component that holds a layer's map. -/
def Sys2Proof.Claims.mapPart : LayerId → Part
  | .bg0 => .map0
  | .bg1 => .map1

/-- STATUS after a fault with cause `c` (R250). -/
def Sys2Proof.Claims.Raised (c : Cause) (s t : State) : Prop :=
  t.status.fault = true ∧ (s.status.fault = false → t.status.cause = c) ∧ (s.status.fault = true → t.status.cause = s.status.cause)

/-- The register numbers of the map of R40. -/
def Sys2Proof.Claims.registerNumbers : List Byte :=
  [0x00, 0x01, 0x02, 0x03, 0x04, 0x05, 0x06, 0x07, 0x10, 0x11, 0x12, 0x14, 0x15, 0x16, 0x20, 0x21]

/-- The bits of a register number that hold a field (R40 to R44); every other bit is reserved. -/
def Sys2Proof.Claims.fieldMask (n : Byte) : Half :=
  match n.toNat with
  | 0x00 | 0x01 | 0x11 | 0x12 | 0x15 | 0x16 => 0xFFFF
  | 0x02 | 0x03 | 0x04 | 0x05 | 0x07 => 0x00FF
  | 0x06 => 0x01FF
  | 0x10 | 0x14 => 0x0FFF
  | 0x20 => 0x00F1
  | 0x21 => 0x0FFF
  | _ => 0

/-- The 16-bit value READ_REG finds at a register number (0 for a reserved one). -/
def Sys2Proof.Claims.regValue (s : State) (n : Byte) : Half := ((regOfNumber n).map s.readReg).getD 0

/-- CMATH_CTRL's fields from bit 0 up (R41). -/
def Sys2Proof.Claims.cmathBits (g : Glob) : List Bool :=
  [g.cmathEnable, g.fadeEnable, g.halfMain, g.doubleMain, g.halfSub, g.doubleSub, g.cmAdd, g.cmSub, g.cmathDefault]

/-- The number of a window logic in the encoding table (R91). -/
def Sys2Proof.Claims.logicNumber : WinLogic → Nat
  | .xnor => 0
  | .xor => 1
  | .and => 2
  | .or => 3

/-- BGn_CTRL's fields from bit 0 up (R42). -/
def Sys2Proof.Claims.bgBits (b : Layer) : List Bool :=
  [b.enabled, b.gate.drawMain, b.gate.drawSub, b.gate.cmath, b.gate.mwin.drawIn, b.gate.mwin.drawOut,
    (logicNumber b.gate.mwin.logic).testBit 0, (logicNumber b.gate.mwin.logic).testBit 1, b.gate.swin.drawIn, b.gate.swin.drawOut,
    (logicNumber b.gate.swin.logic).testBit 0, (logicNumber b.gate.swin.logic).testBit 1]

/-- The code of a cause in the table of R251. -/
def Sys2Proof.Claims.causeNumber : Cause → Nat
  | .none => 0
  | .illegalOpcode => 1
  | .badRegister => 2
  | .blitOutOfBounds => 3
  | .fbIndexRange => 4

/-- The cause a command raises, from the conditions of R251 and R253 to R256; `none` where R252 says nothing faults. -/
def Sys2Proof.Claims.causeOf (s : State) : Instr → Option Cause
  | .nop => none
  | .render => none
  | .setSprite _ _ _ _ => none
  | .getSprite _ => none
  | .blitBg _ x y w h _ =>
    if 0 < w.toNat ∧ 0 < h.toNat ∧ (s.params.mapSize < x.toNat + w.toNat ∨ s.params.mapSize < y.toNat + h.toNat) then some .blitOutOfBounds else none
  | .blitSheet x y w h _ =>
    if 0 < w.toNat ∧ 0 < h.toNat ∧ (s.params.sheetW < x.toNat + w.toNat ∨ s.params.sheetH < y.toNat + h.toNat) then some .blitOutOfBounds else none
  | .writeReg reg _ => if reg ∈ registerNumbers then none else some .badRegister
  | .readReg reg => if reg ∈ registerNumbers then none else some .badRegister
  | .readFb k => if k.toNat < 57600 then none else some .fbIndexRange
  | .resetOam => none

/-- The response words of a faulting command: one zero word for a read (R102, R250). -/
def Sys2Proof.Claims.faultResponse : Instr → List Word
  | .readReg _ => [0]
  | .readFb _ => [0]
  | _ => []

/-- The words at the port: those received and those the host sends before it does anything else (R49). -/
def Sys2Proof.Claims.portWords (s : State) : List Word := s.port.words ++ leadingWords s.input

/-- Nothing the host does cuts short the command that ends the words at the port (R270, R280). -/
def Sys2Proof.Claims.NotCut (s : State) (left : List Word) : Prop := left ≠ [] ∨ ∀ e ∈ (afterWords s.input).head?, e.cuts = false

/-- A cached sprite writes the main colour of pixel `(x, y)` (R165, R166, R168). -/
def Sys2Proof.Claims.MainWriter (s : State) (x y : Nat) (i : Byte) : Prop :=
  let p := s.sprite i
  coversCol p x = true ∧ spriteSample s p ((x : Int) - signed p.x).toNat ((y : Int) - signed p.y).toNat ≠ 0 ∧
    p.gate.drawMain = true ∧ windowAt s.glob p.gate.mwin x = true

/-- Channel width 6 for green, 5 for red and blue: one channel of BLEND as R190 writes it, in exact arithmetic. -/
def Sys2Proof.Claims.blendSpec (g : Glob) (useCmath : Bool) (cw a b : Nat) : Nat :=
  let a1 := if useCmath && g.doubleMain then (2 * a) % 2 ^ cw else a
  let a2 := if useCmath && g.halfMain then a1 / 2 else a1
  let b1 := if g.doubleSub then (2 * b) % 2 ^ cw else b
  let b2 := if g.halfSub then b1 / 2 else b1
  let a3 := if useCmath && g.cmAdd then min (a2 + b2) (2 ^ cw - 1) else a2
  let a4 : Nat := if useCmath && g.cmSub then (max ((a3 : Int) - (b2 : Int)) 0).toNat else a3
  if g.fadeEnable then (a4 * g.fadeLevel.toNat / 256) % 2 ^ cw else a4

/-! Encoding. -/

/-- Decoding an encoded command gives it back, with every operand at every value its encoding admits, whatever follows
(30_encoding.md sections 1 to 3). -/
def Obligations.DecodeEncodeRoundTrip : Prop :=
  ∀ (i : Instr) (rest : List Word), i.wf = true → decode (encode i ++ rest) = .command i rest

/-- Words written out from the encoding tables decode to their commands (R104, R108, R110, vectors T14, T18, T19, T19a). -/
def Obligations.SampleWordsDecode : Prop :=
  decode [0x00FFFFFF] = .command .nop [] ∧
  decode [0x01ABCDEF] = .command .render [] ∧
  decode [0x02000005, 0x000AFFFD, 0x03090810, 0x00400020] = .command (.setSprite 5 0x000AFFFD 0x03090810 0x00400020) [] ∧
  decode [0x03000007] = .command (.getSprite 7) [] ∧
  decode [0x04000001, 0x00030002, 0x00010002, 0x0000001F, 0x000007E0] = .command (.blitBg .bg1 2 3 2 1 [0x001F, 0x07E0]) [] ∧
  decode [0x05000000, 0x00000000, 0x00010001, 0x0000F800] = .command (.blitSheet 0 0 1 1 [0xF800]) [] ∧
  decode [0x06070080] = .command (.writeReg 0x07 128) [] ∧
  decode [0x07200000] = .command (.readReg 0x20) [] ∧
  decode [0x0800E0FF] = .command (.readFb 57599) [] ∧
  decode [0x09000000] = .command .resetOam [] ∧
  decode [0x0A000000] = .illegal 0x0A [] ∧
  decode [0xFF123456] = .illegal 0xFF []

/-- Two command words with one opcode that agree in the bits its format uses decode alike, whatever their ignored bits
(R96 to R99, R105). -/
def Obligations.IgnoredBitsNeverMatter : Prop :=
  ∀ (c d : Word) (ws : List Word), opcodeOf c = opcodeOf d →
    (opcodeOf c = 0x00 ∨ opcodeOf c = 0x01 ∨ opcodeOf c = 0x05 ∨ opcodeOf c = 0x09 → decode (c :: ws) = decode (d :: ws)) ∧
    (opcodeOf c = 0x02 ∨ opcodeOf c = 0x03 ∨ opcodeOf c = 0x08 → slice c 0 16 = slice d 0 16 → decode (c :: ws) = decode (d :: ws)) ∧
    (opcodeOf c = 0x04 → c.getLsbD 0 = d.getLsbD 0 → decode (c :: ws) = decode (d :: ws)) ∧
    (opcodeOf c = 0x06 → slice c 0 24 = slice d 0 24 → decode (c :: ws) = decode (d :: ws)) ∧
    (opcodeOf c = 0x07 → slice c 16 8 = slice d 16 8 → decode (c :: ws) = decode (d :: ws))

/-- A complete command of `n` payload words is taken from the front of the stream and exactly those words are consumed;
`payloadWords` is R101's count (R101). -/
def Obligations.CommandConsumesItsPayload : Prop :=
  ∀ (c : Word) (ws rest : List Word) (i : Instr), decode (c :: ws) = .command i rest →
    ∃ n, payloadWords c ws = some n ∧ n ≤ ws.length ∧ rest = ws.drop n

/-! The port and the step. -/

/-- When the words at the port make a complete command that nothing cuts short, a step is that command run in the state
with the port idle and the command's words taken (R230). -/
def Obligations.StepRunsDecodedCommand : Prop :=
  ∀ (s : State) (i : Instr) (left : List Word), decode (portWords s) = .command i left → NotCut s left →
    step s = exec i { s with port := .idle, input := left.map .word ++ afterWords s.input }

/-- While the command at the port lacks words, a step only receives the words the host has sent (10_state.md section 7). -/
def Obligations.IncompleteCommandWaits : Prop :=
  ∀ (s : State) (ws : List Word), s.input = ws.map .word → decode (s.port.words ++ ws) = .incomplete →
    ∃ t, step s = .next t ∧ t.port.words = s.port.words ++ ws ∧ t.input = [] ∧ OnlyChanges [.port, .input] s t

/-- A command that arrives in two pieces has the effect of one that arrives whole: the step after the first piece changes
only the port, and the step that gets the rest does what one step on all of it does (10_state.md section 7). -/
def Obligations.PayloadMayArriveInPieces : Prop :=
  ∀ (s : State) (first later : List Word) (evs : List HostInput), decode (s.port.words ++ first) = .incomplete →
    ∃ t, step { s with input := first.map .word } = .next t ∧
      step { t with input := later.map .word ++ evs } = step { s with input := (first ++ later).map .word ++ evs }

/-- With no command in progress or sent, a step changes nothing (60_exceptions.md section 3, R267). -/
def Obligations.IdleBlockHoldsState : Prop :=
  ∀ s : State, s.port = .idle → s.input = [] → step s = .next s

/-- A command word with opcode 0x0A to 0xFF takes no payload, changes no state other than STATUS, returns no response word
and raises ILLEGAL_OPCODE (R253). -/
def Obligations.ReservedOpcodeFaults : Prop :=
  ∀ (s : State) (c : Word) (rest : List HostInput), s.port = .idle → s.input = .word c :: rest → 0x0A ≤ (opcodeOf c).toNat →
    (∀ e ∈ rest.head?, e.cuts = false) →
    ∃ t, step s = .next t ∧ Raised .illegalOpcode s t ∧ t.input = rest ∧ OnlyChanges [.status, .input] s t

/-- Every step completes, or is refused because a second writer stands among the host's actions. A second writer that comes
before a complete command (a RENDER among them) or a reserved opcode has finished is refused by that name
(70_reset_and_hazards.md section 3). R280 asks for the refusal during a RENDER only: that it comes during other commands too,
and at an idle or waiting port, is the model's choice (log entry 7). -/
def Obligations.OnlySecondWriterIsRefused : Prop :=
  (∀ s : State, (∃ t, step s = .next t) ∨ (step s = .refused .secondWriter ∧ HostInput.directWrite ∈ s.input)) ∧
  (∀ (s : State) (i : Instr) (rest : List HostInput), decode (portWords s) = .command i [] → afterWords s.input = .directWrite :: rest →
    step s = .refused .secondWriter) ∧
  (∀ (s : State) (op : Byte) (rest : List HostInput), decode (portWords s) = .illegal op [] → afterWords s.input = .directWrite :: rest →
    step s = .refused .secondWriter) ∧
  (∀ (s : State) (rest : List HostInput), decode (portWords s) = .incomplete → afterWords s.input = .directWrite :: rest →
    step s = .refused .secondWriter)

/-! Reset. -/

/-- The state after reset (R51): default sprites, every field and register 0 but PARAM, every element of every plane 0, port
Idle, no transient state. -/
def Obligations.ResetState : Prop :=
  (∀ i, State.reset.sprite i = Sprite.default) ∧ State.reset.bg0 = Layer.zero ∧ State.reset.bg1 = Layer.zero ∧
  State.reset.glob = Glob.zero ∧ regValue State.reset 0x20 = 0 ∧ regValue State.reset 0x21 = paramWord State.reset.params ∧
  (∀ n, n ≠ 0x21 → regValue State.reset n = 0) ∧
  (∀ k, State.reset.map0.readElem k = 0 ∧ State.reset.map1.readElem k = 0 ∧ State.reset.sheet.readElem k = 0 ∧ State.reset.fb.readElem k = 0) ∧
  State.reset.port = .idle ∧ State.reset.scan = none

/-- The parameters of the machine right after reset have the values of R11's third column, and the two OPEN sheet sizes are
powers of two in R11's domain. -/
def Obligations.ResetParameters : Prop :=
  State.reset.params.mapSize = 512 ∧ State.reset.params.yflipMode = .independent ∧ State.reset.params.sheetWrap = .perAxis ∧
  State.reset.params.binFilter = .drawAndWindow ∧ State.reset.params.subNeedsOpaque = true ∧ State.reset.params.fbByteSwap = false ∧
  (∃ k, 1 ≤ k ∧ k ≤ 15 ∧ State.reset.params.sheetW = 2 ^ k) ∧ (∃ k, 1 ≤ k ∧ k ≤ 15 ∧ State.reset.params.sheetH = 2 ^ k)

/-- A reset abandons the command in progress: one still being received, a complete one that has not finished (a RENDER among
them), or a reserved opcode. It leaves the state of R51, with no FrameOut of the command (70_reset_and_hazards.md section 1).
The model's choices in it: the parameters stay (log entry 1), the words and frames already sent and the host's further actions
stay (log entry 3), and the abandoned command has sent no response word at all before the reset (log entry 8). -/
def Obligations.ResetAbandonsCommand : Prop :=
  ∀ (s : State) (ws : List Word) (rest : List HostInput),
    ((decode (s.port.words ++ ws) = .incomplete ∧ (s.input = ws.map .word ++ .reset :: rest ∨ s.input = ws.map .word ++ .resetInCommand :: rest)) ∨
      (∃ i, decode (s.port.words ++ ws) = .command i [] ∧ s.input = ws.map .word ++ .resetInCommand :: rest) ∨
      (∃ op, decode (s.port.words ++ ws) = .illegal op [] ∧ s.input = ws.map .word ++ .resetInCommand :: rest)) →
    step s = .next { State.reset with params := s.params, input := rest, responses := s.responses, frames := s.frames }

/-! Faults. -/

/-- Raising a fault, in a step: the cause is recorded if none was, FAULT is set, nothing else changes, the payload is consumed,
a read returns one zero word, and the port is ready for the next command; the same for a reserved opcode (R250). -/
def Obligations.FaultingCommandOnlyRecordsTheFault : Prop :=
  (∀ (s : State) (i : Instr) (left : List Word) (c : Cause), decode (portWords s) = .command i left → NotCut s left →
    causeOf s i = some c →
    ∃ t, step s = .next t ∧ Raised c s t ∧ t.responses = s.responses ++ faultResponse i ∧ t.port = .idle ∧
      t.input = left.map .word ++ afterWords s.input ∧ OnlyChanges [.status, .responses, .port, .input] s t) ∧
  (∀ (s : State) (op : Byte) (left : List Word), decode (portWords s) = .illegal op left → NotCut s left →
    ∃ t, step s = .next t ∧ Raised .illegalOpcode s t ∧ t.port = .idle ∧ t.input = left.map .word ++ afterWords s.input ∧
      OnlyChanges [.status, .port, .input] s t)

/-- A command changes STATUS exactly when one of the conditions of R251 holds of it, and then records that cause (R251, R252). -/
def Obligations.StatusChangesOnlyByListedCauses : Prop :=
  ∀ (s : State) (i : Instr), ∃ t, exec i s = .next t ∧
    (causeOf s i = none → t.status = s.status) ∧ (∀ c, causeOf s i = some c → Raised c s t)

/-- A recorded fault stays as it is, with its cause, through every step but a reset, whatever fault comes next; a reset clears
it (R259). -/
def Obligations.FaultStaysUntilReset : Prop :=
  (∀ s t : State, step s = .next t → s.status.fault = true → HostInput.reset ∉ s.input → HostInput.resetInCommand ∉ s.input →
    t.status = s.status) ∧
  (∀ (s : State) (ws : List Word) (rest : List HostInput), decode (s.port.words ++ ws) = .incomplete →
    s.input = ws.map .word ++ .reset :: rest → ∃ t, step s = .next t ∧ t.status.fault = false ∧ t.status.cause = .none)

/-- A run with no reset that ends without a recorded fault had none after any of its steps, so R260's premise on the end
covers the whole run (60_exceptions.md section 1: R260's premise, and R257, which the spec marks as derived). -/
def Obligations.SafeRunIsSafeThroughout : Prop :=
  ∀ (n m : Nat) (s t : State), SafeRun n s t → m ≤ n → HostInput.reset ∉ s.input → HostInput.resetInCommand ∉ s.input →
    ∃ u, SafeRun m s u

/-! Commands. -/

/-- NOP: every word 0x00xxxxxx is NOP, and it leaves the state unchanged (R220). -/
def Obligations.NopChangesNothing : Prop :=
  (∀ s, exec .nop s = .next s) ∧ (∀ (c : Word) (ws : List Word), slice c 24 8 = 0x00 → decode (c :: ws) = .command .nop ws)

/-- SET_SPRITE replaces the whole entry `oam[idx[7:0]]` by the unpacked record and changes nothing else; the record of zeros is
the default sprite; opcode 0x02 and three payload words (R222). -/
def Obligations.SetSpriteReplacesEntry : Prop :=
  (∀ (s : State) (idx : Half) (s0 s1 s2 : Word), ∃ t, exec (.setSprite idx s0 s1 s2) s = .next t ∧
    t.sprite (slice idx 0 8) = unpackSprite s0 s1 s2 ∧ (∀ j, j ≠ slice idx 0 8 → t.sprite j = s.sprite j) ∧ OnlyChanges [.oam] s t) ∧
  unpackSprite 0 0 0 = Sprite.default ∧
  (∀ (c s0 s1 s2 : Word) (rest : List Word), slice c 24 8 = 0x02 →
    decode (c :: s0 :: s1 :: s2 :: rest) = .command (.setSprite (slice c 0 16) s0 s1 s2) rest)

/-- GET_SPRITE responds with the three words of `oam[idx[7:0]]` and changes nothing else; after reset they are zero; after a
SET_SPRITE of the same entry they are the words it stored; opcode 0x03 and no payload (R223). -/
def Obligations.GetSpriteReturnsRecord : Prop :=
  (∀ (s : State) (idx : Half), ∃ t, exec (.getSprite idx) s = .next t ∧
    t.responses = s.responses ++ [packS0 (s.sprite (slice idx 0 8)), packS1 (s.sprite (slice idx 0 8)), packS2 (s.sprite (slice idx 0 8))] ∧
    OnlyChanges [.responses] s t) ∧
  (∀ idx : Half, ∃ t, exec (.getSprite idx) State.reset = .next t ∧ t.responses = [0, 0, 0]) ∧
  (∀ (s : State) (i j : Half) (s0 s1 s2 : Word), slice i 0 8 = slice j 0 8 →
    ∃ t u, exec (.setSprite i s0 s1 s2) s = .next t ∧ exec (.getSprite j) t = .next u ∧ u.responses = s.responses ++ [s0, s1, s2]) ∧
  (∀ (c : Word) (ws : List Word), slice c 24 8 = 0x03 → decode (c :: ws) = .command (.getSprite (slice c 0 16)) ws)

/-- The sprite record: the fields are where R92 and R93 put them, every record is a legal descriptor, and packing is the exact
inverse of unpacking (30_encoding.md section 1; the spec marks R94 as derived). -/
def Obligations.SpriteRecordIsExact : Prop :=
  (∀ s0 s1 s2 : Word,
    let p := unpackSprite s0 s1 s2
    p.x = slice s0 0 16 ∧ p.y = slice s0 16 16 ∧ p.width = slice s1 0 8 ∧ p.height = slice s1 8 8 ∧ p.graphicsX = slice s2 0 16 ∧
      p.graphicsY = slice s2 16 16 ∧ p.enabled = s1.getLsbD 16 ∧ p.flipX = s1.getLsbD 17 ∧ p.flipY = s1.getLsbD 18 ∧
      p.gate.drawMain = s1.getLsbD 19 ∧ p.gate.drawSub = s1.getLsbD 20 ∧ p.gate.cmath = s1.getLsbD 21 ∧ p.priority = s1.getLsbD 22 ∧
      p.doubleSize = s1.getLsbD 23 ∧ p.gate.mwin.drawIn = s1.getLsbD 24 ∧ p.gate.mwin.drawOut = s1.getLsbD 25 ∧
      p.gate.mwin.logic = logicOfCode (slice s1 26 2) ∧ p.gate.swin.drawIn = s1.getLsbD 28 ∧ p.gate.swin.drawOut = s1.getLsbD 29 ∧
      p.gate.swin.logic = logicOfCode (slice s1 30 2) ∧ packS0 p = s0 ∧ packS1 p = s1 ∧ packS2 p = s2) ∧
  (∀ p : Sprite, unpackSprite (packS0 p) (packS1 p) (packS2 p) = p)

/-- BLIT_BG (R224): an empty region does nothing; a region that does not fit raises BLIT_OUT_OF_BOUNDS and writes nothing; else
pixel `k` goes to row `y + k div w`, column `x + k mod w` of the layer's map, and nothing else changes. Opcode 0x04, the layer
in bit 0, and all `2 + w * h` payload words are consumed, whatever the region. -/
def Obligations.BlitBgWritesRegion : Prop :=
  (∀ (c : Word) (x y w h : Half) (px rest : List Word), slice c 24 8 = 0x04 → px.length = w.toNat * h.toNat →
    decode (c :: (y ++ x) :: (h ++ w) :: (px ++ rest)) =
      .command (.blitBg (if c.getLsbD 0 then .bg1 else .bg0) x y w h (px.map (fun p => slice p 0 16))) rest) ∧
  ∀ (s : State) (l : LayerId) (x y w h : Half) (px : List Colour), px.length = w.toNat * h.toNat →
    let N := s.params.mapSize
    (w.toNat = 0 ∨ h.toNat = 0 → exec (.blitBg l x y w h px) s = .next s) ∧
    (0 < w.toNat → 0 < h.toNat → N < x.toNat + w.toNat ∨ N < y.toNat + h.toNat →
      ∃ t, exec (.blitBg l x y w h px) s = .next t ∧ Raised .blitOutOfBounds s t ∧ OnlyChanges [.status] s t) ∧
    (0 < w.toNat → 0 < h.toNat → x.toNat + w.toNat ≤ N → y.toNat + h.toNat ≤ N →
      ∃ t, exec (.blitBg l x y w h px) s = .next t ∧ OnlyChanges [mapPart l] s t ∧
        (∀ k, k < w.toNat * h.toNat → (t.map l).planeRead N (y.toNat + k / w.toNat) (x.toNat + k % w.toNat) = px.getD k 0#16) ∧
        (∀ a, ¬ ((y.toNat ≤ a / 2 / N ∧ a / 2 / N < y.toNat + h.toNat) ∧ x.toNat ≤ a / 2 % N ∧ a / 2 % N < x.toNat + w.toNat) →
          (t.map l).readByte a = (s.map l).readByte a))

/-- BLIT_SHEET (R225): the same contract, into the sprite sheet, against SHEET_W and SHEET_H. Opcode 0x05, bits [23:0] ignored. -/
def Obligations.BlitSheetWritesRegion : Prop :=
  (∀ (c : Word) (x y w h : Half) (px rest : List Word), slice c 24 8 = 0x05 → px.length = w.toNat * h.toNat →
    decode (c :: (y ++ x) :: (h ++ w) :: (px ++ rest)) = .command (.blitSheet x y w h (px.map (fun p => slice p 0 16))) rest) ∧
  ∀ (s : State) (x y w h : Half) (px : List Colour), px.length = w.toNat * h.toNat →
    let W := s.params.sheetW
    let H := s.params.sheetH
    (w.toNat = 0 ∨ h.toNat = 0 → exec (.blitSheet x y w h px) s = .next s) ∧
    (0 < w.toNat → 0 < h.toNat → W < x.toNat + w.toNat ∨ H < y.toNat + h.toNat →
      ∃ t, exec (.blitSheet x y w h px) s = .next t ∧ Raised .blitOutOfBounds s t ∧ OnlyChanges [.status] s t) ∧
    (0 < w.toNat → 0 < h.toNat → x.toNat + w.toNat ≤ W → y.toNat + h.toNat ≤ H →
      ∃ t, exec (.blitSheet x y w h px) s = .next t ∧ OnlyChanges [.sheet] s t ∧
        (∀ k, k < w.toNat * h.toNat → t.sheet.planeRead W (y.toNat + k / w.toNat) (x.toNat + k % w.toNat) = px.getD k 0#16) ∧
        (∀ a, ¬ ((y.toNat ≤ a / 2 / W ∧ a / 2 / W < y.toNat + h.toNat) ∧ x.toNat ≤ a / 2 % W ∧ a / 2 % W < x.toNat + w.toNat) →
          t.sheet.readByte a = s.sheet.readByte a))

/-- WRITE_REG (R226): a RW register stores the fields of the value and every other register stays; a write to STATUS or PARAM
is skipped; a reserved number raises BAD_REGISTER and writes nothing. Opcode 0x06, `reg` in [23:16], `value` in [15:0]. -/
def Obligations.WriteRegStoresFields : Prop :=
  (∀ (c : Word) (ws : List Word), slice c 24 8 = 0x06 → decode (c :: ws) = .command (.writeReg (slice c 16 8) (slice c 0 16)) ws) ∧
  ∀ (s : State) (reg : Byte) (v : Half),
    (reg ∈ registerNumbers → reg ≠ 0x20 → reg ≠ 0x21 →
      ∃ t, exec (.writeReg reg v) s = .next t ∧ regValue t reg = v &&& fieldMask reg ∧ (∀ n, n ≠ reg → regValue t n = regValue s n) ∧
        OnlyChanges [.bg0, .bg1, .glob] s t) ∧
    (reg = 0x20 ∨ reg = 0x21 → exec (.writeReg reg v) s = .next s) ∧
    (reg ∉ registerNumbers → ∃ t, exec (.writeReg reg v) s = .next t ∧ Raised .badRegister s t ∧ OnlyChanges [.status] s t)

/-- READ_REG (R227): a register of the map responds with its value zero-extended, reserved bits 0; a reserved number responds
0x00000000 and raises BAD_REGISTER; what a WRITE_REG of a RW register stored is read back; a scroll of -1 reads 0x0000FFFF;
PARAM reads its hardwired value. Opcode 0x07, bits [15:0] ignored. -/
def Obligations.ReadRegResponds : Prop :=
  (∀ (c : Word) (ws : List Word), slice c 24 8 = 0x07 → decode (c :: ws) = .command (.readReg (slice c 16 8)) ws) ∧
  (∀ (s : State) (reg : Byte) (v : Half), reg ∈ registerNumbers → reg ≠ 0x20 → reg ≠ 0x21 →
    ∃ t u, exec (.writeReg reg v) s = .next t ∧ exec (.readReg reg) t = .next u ∧ u.responses = s.responses ++ [0#16 ++ (v &&& fieldMask reg)]) ∧
  (∀ s : State, s.bg0.scrollX.toInt = -1 → ∃ t, exec (.readReg 0x11) s = .next t ∧ t.responses = s.responses ++ [0x0000FFFF]) ∧
  (∃ t w, exec (.readReg 0x21) State.reset = .next t ∧ t.responses = [w] ∧ slice w 0 4 = 9) ∧
  ∀ (s : State) (reg : Byte),
    (reg ∈ registerNumbers → ∃ t, exec (.readReg reg) s = .next t ∧ t.responses = s.responses ++ [0#16 ++ regValue s reg] ∧
      regValue s reg &&& ~~~(fieldMask reg) = 0 ∧ OnlyChanges [.responses] s t) ∧
    (reg ∉ registerNumbers → ∃ t, exec (.readReg reg) s = .next t ∧ t.responses = s.responses ++ [0] ∧ Raised .badRegister s t ∧
      OnlyChanges [.responses, .status] s t)

/-- The register map: what every number reads (10_state.md section 5, R40): the colour, window, fade and scroll registers their
fields, the control words their bits (R41, R42), STATUS and PARAM theirs (R43, R44, R251), and no other number is a register. -/
def Obligations.RegisterMapReads : Prop :=
  ∀ s : State,
    regValue s 0x00 = s.glob.defaultMain ∧ regValue s 0x01 = s.glob.defaultSub ∧
    (regValue s 0x02).toNat = s.glob.win1Left.toNat ∧ (regValue s 0x03).toNat = s.glob.win1Right.toNat ∧
    (regValue s 0x04).toNat = s.glob.win2Left.toNat ∧ (regValue s 0x05).toNat = s.glob.win2Right.toNat ∧
    (regValue s 0x07).toNat = s.glob.fadeLevel.toNat ∧
    regValue s 0x11 = s.bg0.scrollX ∧ regValue s 0x12 = s.bg0.scrollY ∧ regValue s 0x15 = s.bg1.scrollX ∧ regValue s 0x16 = s.bg1.scrollY ∧
    (∀ k, (regValue s 0x06).getLsbD k = (cmathBits s.glob).getD k false) ∧
    (∀ k, (regValue s 0x10).getLsbD k = (bgBits s.bg0).getD k false) ∧
    (∀ k, (regValue s 0x14).getLsbD k = (bgBits s.bg1).getD k false) ∧
    (regValue s 0x20).toNat = s.status.fault.toNat + 16 * causeNumber s.status.cause ∧
    (regValue s 0x21).toNat = s.params.mapLog2.toNat + 16 * s.params.sheetWLog2.toNat + 256 * s.params.sheetHLog2.toNat ∧
    (∀ n, n ∉ registerNumbers → regOfNumber n = none)

/-- CMATH_CTRL's nine bits are the fields R41 names, a write of any value sets them, and they are 0 after reset (R41). -/
def Obligations.CmathCtrlBits : Prop :=
  regValue State.reset 0x06 = 0 ∧ ∀ (s : State) (v : Half),
    (∀ k, (regValue s 0x06).getLsbD k = (cmathBits s.glob).getD k false) ∧
    ∃ t, exec (.writeReg 0x06 v) s = .next t ∧ cmathBits t.glob = (List.range 9).map v.getLsbD ∧ OnlyChanges [.glob] s t

/-- BGn_CTRL's twelve bits are the fields R42 names, for both layers, a write of any value sets them, and they are 0 after
reset (R42). -/
def Obligations.BgCtrlBits : Prop :=
  regValue State.reset 0x10 = 0 ∧ regValue State.reset 0x14 = 0 ∧ ∀ (s : State) (l : LayerId) (v : Half),
    let reg : Byte := match l with | .bg0 => 0x10 | .bg1 => 0x14
    (∀ k, (regValue s reg).getLsbD k = (bgBits (s.layer l)).getD k false) ∧
    ∃ t, exec (.writeReg reg v) s = .next t ∧ bgBits (t.layer l) = (List.range 12).map v.getLsbD ∧
      (t.layer l).scrollX = (s.layer l).scrollX ∧ (t.layer l).scrollY = (s.layer l).scrollY ∧
      OnlyChanges [match l with | .bg0 => .bg0 | .bg1 => .bg1] s t

/-- STATUS and PARAM: which bit of the register holds what, with R251's code for each cause; a write of either changes nothing;
no step changes any parameter. The STATUS clauses are R43's and R251's, the PARAM clauses R44's (10_state.md section 5,
60_exceptions.md section 1); that the parameters beyond R44's three sizes stay too, also over a reset, is the model's choice
(log entry 1). -/
def Obligations.StatusAndParamBits : Prop :=
  (∀ s : State,
    (∀ k, (regValue s 0x20).getLsbD k =
      (if k = 0 then s.status.fault else if 4 ≤ k ∧ k < 8 then (causeNumber s.status.cause).testBit (k - 4) else false)) ∧
    slice (regValue s 0x21) 0 4 = s.params.mapLog2 ∧ slice (regValue s 0x21) 4 4 = s.params.sheetWLog2 ∧
    slice (regValue s 0x21) 8 4 = s.params.sheetHLog2 ∧ slice (regValue s 0x21) 12 4 = 0 ∧
    s.params.mapSize = 2 ^ (slice (regValue s 0x21) 0 4).toNat ∧ s.params.sheetW = 2 ^ (slice (regValue s 0x21) 4 4).toNat ∧
    s.params.sheetH = 2 ^ (slice (regValue s 0x21) 8 4).toNat) ∧
  (∀ (s : State) (v : Half), exec (.writeReg 0x20 v) s = .next s ∧ exec (.writeReg 0x21 v) s = .next s) ∧
  slice (regValue State.reset 0x21) 0 4 = 9 ∧ (∀ s t : State, step s = .next t → t.params = s.params)

/-- PARAM is hardwired: it reads the three sizes' logarithms, 9 for the 512 of MAP_SIZE, a write to it changes nothing, and no
step, a reset among them, changes what it reads (R44). -/
def Obligations.ParamIsHardwired : Prop :=
  (∀ s : State, s.params.mapSize = 2 ^ (slice (regValue s 0x21) 0 4).toNat ∧ s.params.sheetW = 2 ^ (slice (regValue s 0x21) 4 4).toNat ∧
    s.params.sheetH = 2 ^ (slice (regValue s 0x21) 8 4).toNat ∧ slice (regValue s 0x21) 12 4 = 0 ∧
    (s.params.mapSize = 512 → slice (regValue s 0x21) 0 4 = 9)) ∧
  (∀ (s : State) (v : Half), exec (.writeReg 0x21 v) s = .next s) ∧
  (∀ s t : State, step s = .next t → regValue t 0x21 = regValue s 0x21)

/-- READ_FB (R228): an index below 57600 responds with that element; any other responds 0x00000000 and raises
FB_INDEX_RANGE; before any RENDER the response is 0x00000000. Opcode 0x08 and no payload. -/
def Obligations.ReadFbResponds : Prop :=
  (∀ (c : Word) (ws : List Word), slice c 24 8 = 0x08 → decode (c :: ws) = .command (.readFb (slice c 0 16)) ws) ∧
  (∀ k : Half, ∃ t, exec (.readFb k) State.reset = .next t ∧ t.responses = [0]) ∧
  ∀ (s : State) (k : Half),
    (k.toNat < 57600 → ∃ t, exec (.readFb k) s = .next t ∧ t.responses = s.responses ++ [0#16 ++ s.fb.readElem k.toNat] ∧
      OnlyChanges [.responses] s t) ∧
    (57600 ≤ k.toNat → ∃ t, exec (.readFb k) s = .next t ∧ t.responses = s.responses ++ [0] ∧ Raised .fbIndexRange s t ∧
      OnlyChanges [.responses, .status] s t)

/-- RESET_OAM makes every entry the default sprite and touches no other state; any GET_SPRITE then returns three zero words.
Opcode 0x09 and no payload (R229). -/
def Obligations.ResetOamDefaultsEveryEntry : Prop :=
  (∀ (c : Word) (ws : List Word), slice c 24 8 = 0x09 → decode (c :: ws) = .command .resetOam ws) ∧
  ∀ s : State, ∃ t, exec .resetOam s = .next t ∧ (∀ i, t.sprite i = Sprite.default) ∧ OnlyChanges [.oam] s t ∧
    ∀ idx : Half, ∃ u, exec (.getSprite idx) t = .next u ∧ u.responses = s.responses ++ [0, 0, 0]

/-! The pipeline. -/

/-- The window gate is `(L and drawIn) or (not L and drawOut)` with `L` from the truth table of the 2-bit code (R150). -/
def Obligations.WindowGateTruthTable : Prop :=
  ∀ inA inB drawIn drawOut : Bool,
    window (logicOfCode 0) inA inB drawIn drawOut = (((inA == inB) && drawIn) || (!(inA == inB) && drawOut)) ∧
    window (logicOfCode 1) inA inB drawIn drawOut = ((xor inA inB && drawIn) || (!(xor inA inB) && drawOut)) ∧
    window (logicOfCode 2) inA inB drawIn drawOut = (((inA && inB) && drawIn) || (!(inA && inB) && drawOut)) ∧
    window (logicOfCode 3) inA inB drawIn drawOut = (((inA || inB) && drawIn) || (!(inA || inB) && drawOut))

/-- Window membership is inclusive on both bounds, unsigned, and a window whose left bound exceeds its right bound contains no
column (10_state.md section 6; R48, whose last clause the spec marks as derived). -/
def Obligations.WindowMembershipInclusive : Prop :=
  ∀ (g : Glob) (x : Nat),
    (inA g x = true ↔ g.win1Left.toNat ≤ x ∧ x ≤ g.win1Right.toNat) ∧ (inB g x = true ↔ g.win2Left.toNat ≤ x ∧ x ≤ g.win2Right.toNat) ∧
    (g.win1Right.toNat < g.win1Left.toNat → inA g x = false) ∧ (g.win2Right.toNat < g.win2Left.toNat → inB g x = false)

/-- The caches in closed form: the first 16 eligible OAM indices of each priority class, in ascending order, with the visibility
test of R132 written out for both values of BIN_FILTER (41_sprite_binner.md; the spec marks R136 as derived). -/
def Obligations.BinSelectsFirstSixteen : Prop :=
  ∀ (s : State) (y : Nat),
    let VISIBLE_ANY (p : Sprite) : Bool :=
      match s.params.binFilter with
      | .drawAndWindow =>
        (p.gate.drawMain && (p.gate.mwin.drawIn || p.gate.mwin.drawOut)) || (p.gate.drawSub && (p.gate.swin.drawIn || p.gate.swin.drawOut))
      | .windowOnly => p.gate.mwin.drawIn || p.gate.mwin.drawOut || p.gate.swin.drawIn || p.gate.swin.drawOut
    let eff_h (p : Sprite) : Nat := if p.doubleSize then 2 * p.height.toNat else p.height.toNat
    let ELIG (i : Nat) : Bool :=
      let p := s.sprite (BitVec.ofNat 8 i)
      p.enabled && VISIBLE_ANY p && decide (p.y.toInt ≤ (y : Int) ∧ (y : Int) < p.y.toInt + (eff_h p : Int))
    (bin s y).lo = (((List.range 256).filter (fun i => ELIG i && !(s.sprite (BitVec.ofNat 8 i)).priority)).take 16).map (BitVec.ofNat 8) ∧
    (bin s y).hi = (((List.range 256).filter (fun i => ELIG i && (s.sprite (BitVec.ofNat 8 i)).priority)).take 16).map (BitVec.ofNat 8)

/-- A sprite the visibility test drops, under either BIN_FILTER, would write nothing at any pixel if it were cached
(41_sprite_binner.md; the spec marks R138 as derived). -/
def Obligations.FilteredSpriteWouldDrawNothing : Prop :=
  ∀ (f : BinFilter) (s : State) (i : Byte), visibleAny f (s.sprite i) = false → ∀ (x y : Nat) (w : Work), spriteStepOne s x y w i = w

/-- In the sprite step of row `y`, `dy = y - s.y` is in `[0, eff_h(s))` for every cached sprite (43_layer_compositor.md; the spec
marks R171 as derived). -/
def Obligations.CachedSpriteCoversRow : Prop :=
  ∀ (s : State) (y : Nat) (i : Byte), i ∈ (bin s y).lo ∨ i ∈ (bin s y).hi →
    0 ≤ (y : Int) - (s.sprite i).y.toInt ∧ (y : Int) - (s.sprite i).y.toInt < (effH (s.sprite i) : Int)

/-- The effective extents are the doubled or plain width and height, at most 510 (R25). -/
def Obligations.EffectiveExtents : Prop :=
  ∀ p : Sprite,
    (p.doubleSize = true → effW p = 2 * p.width.toNat ∧ effH p = 2 * p.height.toNat) ∧
    (p.doubleSize = false → effW p = p.width.toNat ∧ effH p = p.height.toNat) ∧ effW p ≤ 510 ∧ effH p ≤ 510

/-- The background sample's row and column are `(v + scroll) mod MAP_SIZE` whether the scroll is read as signed or unsigned, and
are inside the map (20_memory.md section 2; the spec marks the equivalence in R65 as derived). -/
def Obligations.ScrollWrapsBothWays : Prop :=
  ∀ (p : Params) (v : Nat) (scroll : Half),
    ((scrolled p v scroll : Nat) : Int) = ((v : Int) + scroll.toInt) % (p.mapSize : Int) ∧
    scrolled p v scroll = (v + scroll.toNat) % 2 ^ p.mapLog2.toNat ∧ scrolled p v scroll < p.mapSize

/-- The background step: exactly when each register is written, and with what (R162, R163, R164). -/
def Obligations.BackgroundStepWrites : Prop :=
  ∀ (s : State) (l : LayerId) (x y : Nat) (w : Work),
    let b := s.layer l
    let c := (s.map l).planeRead s.params.mapSize (((y : Int) + b.scrollY.toInt) % (s.params.mapSize : Int)).toNat
      (((x : Int) + b.scrollX.toInt) % (s.params.mapSize : Int)).toNat
    let M := c ≠ 0 ∧ b.gate.drawMain = true ∧ window b.gate.mwin.logic (inA s.glob x) (inB s.glob x) b.gate.mwin.drawIn b.gate.mwin.drawOut = true
    let S := (c ≠ 0 ∨ s.params.subNeedsOpaque = false) ∧ b.gate.drawSub = true ∧
      window b.gate.swin.logic (inA s.glob x) (inB s.glob x) b.gate.swin.drawIn b.gate.swin.drawOut = true
    (b.enabled = false → bgStep s l x y w = w) ∧
    (b.enabled = true →
      (M → (bgStep s l x y w).mainColor = c ∧ (bgStep s l x y w).colorMathFlag = b.gate.cmath) ∧
      (¬ M → (bgStep s l x y w).mainColor = w.mainColor ∧ (bgStep s l x y w).colorMathFlag = w.colorMathFlag) ∧
      (S → (bgStep s l x y w).subColor = c) ∧ (¬ S → (bgStep s l x y w).subColor = w.subColor))

/-- The sprite step for one cached sprite: exactly when each register is written, and with what sample (R166, R168, R169). -/
def Obligations.SpriteStepWrites : Prop :=
  ∀ (s : State) (i : Byte) (x y : Nat) (w : Work),
    let p := s.sprite i
    let dx := (x : Int) - p.x.toInt
    let ox := halveOffset p (flipX p dx.toNat)
    let oy := halveOffset p (flipY s.params.yflipMode p dx.toNat ((y : Int) - p.y.toInt).toNat)
    let c := sheetSample s (p.graphicsY.toNat + oy) (p.graphicsX.toNat + ox)
    let M := c ≠ 0 ∧ p.gate.drawMain = true ∧ window p.gate.mwin.logic (inA s.glob x) (inB s.glob x) p.gate.mwin.drawIn p.gate.mwin.drawOut = true
    let S := (c ≠ 0 ∨ s.params.subNeedsOpaque = false) ∧ p.gate.drawSub = true ∧
      window p.gate.swin.logic (inA s.glob x) (inB s.glob x) p.gate.swin.drawIn p.gate.swin.drawOut = true
    (¬ (0 ≤ dx ∧ dx < (effW p : Int)) → spriteStepOne s x y w i = w) ∧
    (0 ≤ dx ∧ dx < (effW p : Int) →
      (M → (spriteStepOne s x y w i).mainColor = c ∧ (spriteStepOne s x y w i).colorMathFlag = p.gate.cmath) ∧
      (¬ M → (spriteStepOne s x y w i).mainColor = w.mainColor ∧ (spriteStepOne s x y w i).colorMathFlag = w.colorMathFlag) ∧
      (S → (spriteStepOne s x y w i).subColor = c) ∧ (¬ S → (spriteStepOne s x y w i).subColor = w.subColor))

/-- The source offsets stay inside the sprite and flipping commutes with halving: `ox < width`, `oy < height`, and under
double size `(2w - 1 - dx) >> 1 = w - 1 - (dx >> 1)`, under YFLIP_MODE = INDEPENDENT (43_layer_compositor.md; the spec marks
R174 as derived). -/
def Obligations.SourceOffsetsInsideSprite : Prop :=
  ∀ (p : Sprite) (dx dy : Nat), dx < effW p → dy < effH p →
    (∀ n, halveOffset p n = if p.doubleSize then n / 2 else n) ∧
    halveOffset p (flipX p dx) < p.width.toNat ∧ halveOffset p (flipY .independent p dx dy) < p.height.toNat ∧
    (p.flipX = true → halveOffset p (flipX p dx) = p.width.toNat - 1 - halveOffset p dx) ∧
    (p.flipX = false → halveOffset p (flipX p dx) = halveOffset p dx) ∧
    (p.flipY = true → halveOffset p (flipY .independent p dx dy) = p.height.toNat - 1 - halveOffset p dy) ∧
    (p.flipY = false → ∀ mode, halveOffset p (flipY mode p dx dy) = halveOffset p dy)

/-- Sheet sampling: PER_AXIS reduces row and column, LINEAR the element index; the two agree whenever `c < SHEET_W` (R66). -/
def Obligations.SheetSampleWraps : Prop :=
  ∀ (s : State) (r c : Nat),
    let per := { s with params := { s.params with sheetWrap := .perAxis } }
    let lin := { s with params := { s.params with sheetWrap := .linear } }
    sheetSample per r c = s.sheet.planeRead s.params.sheetW (r % s.params.sheetH) (c % s.params.sheetW) ∧
    sheetSample lin r c = s.sheet.readElem ((r * s.params.sheetW + c) % (s.params.sheetW * s.params.sheetH)) ∧
    (c < s.params.sheetW → sheetSample per r c = sheetSample lin r c)

/-- Last writer wins: the last high-priority sprite that writes main at a pixel gives the pixel its main colour and its
colour-math flag, whatever the backgrounds, the low sprites and the other high sprites write (43_layer_compositor.md,
R170, R172). -/
def Obligations.LastHighSpriteWins : Prop :=
  ∀ (s : State) (c : Caches) (x y : Nat) (before after : List Byte) (i : Byte), c.hi = before ++ i :: after →
    MainWriter s x y i → (∀ j ∈ after, ¬ MainWriter s x y j) →
    (composite s c x y).mainColor = spriteSample s (s.sprite i) ((x : Int) - (s.sprite i).x.toInt).toNat ((y : Int) - (s.sprite i).y.toInt).toNat ∧
    (composite s c x y).colorMathFlag = (s.sprite i).gate.cmath

/-- BLEND channel by channel in exact arithmetic, and its bypass (R190). -/
def Obligations.BlendChannelByChannel : Prop :=
  ∀ (g : Glob) (m s : Colour) (f : Bool),
    let use := g.cmathEnable && f
    (use = false → g.fadeEnable = false → blend g m s f = m) ∧
    (use = true ∨ g.fadeEnable = true →
      (slice (blend g m s f) 11 5).toNat = blendSpec g use 5 (slice m 11 5).toNat (slice s 11 5).toNat ∧
      (slice (blend g m s f) 5 6).toNat = blendSpec g use 6 (slice m 5 6).toNat (slice s 5 6).toNat ∧
      (slice (blend g m s f) 0 5).toNat = blendSpec g use 5 (slice m 0 5).toNat (slice s 0 5).toNat)

/-- Without colour math the sub colour and the six operation flags have no effect on the result (R191). -/
def Obligations.SubColourNeedsColourMath : Prop :=
  ∀ (g g' : Glob) (m s s' : Colour) (f f' : Bool), (g.cmathEnable && f) = false → (g'.cmathEnable && f') = false →
    g.fadeEnable = g'.fadeEnable → g.fadeLevel = g'.fadeLevel → blend g m s f = blend g' m s' f' ∧ (g.fadeEnable = false → blend g m s f = m)

/-- The fade laws: level 128 halves every channel, level 255 takes 1 from every non-zero channel, and no level brightens
(R198, R202, 90_conflicts.md C3). -/
def Obligations.FadeNeverBrightens : Prop :=
  ∀ (cw a : Nat) (level : Byte), a < 2 ^ cw → cw ≤ 8 →
    fadeChannel true level cw a = a * level.toNat / 256 ∧ (0 < a → fadeChannel true level cw a < a) ∧
    fadeChannel true 128 cw a = a / 2 ∧ fadeChannel true 255 cw a = a - 1 ∧ fadeChannel true 0 cw a = 0

/-! Frames. -/

/-- RENDER: every element of the frame buffer becomes BLEND(COMPOSITE) with the caches of BIN of its row, one FrameOut event
carries the frame, no transient state is left, and nothing else changes; RENDER always completes; a pixel reads nothing of
the frame buffer, STATUS or the port (R210). That no transient state is left is R20's and R47's (10_state.md sections 1 and 6),
the event's byte-swap setting R70's (20_memory.md section 3). -/
def Obligations.RenderFillsFrame : Prop :=
  (∀ (s : State) (fb : Memory) (status : Status) (port : Port) (x y : Nat),
    framePixel { s with fb := fb, status := status, port := port } x y = framePixel s x y) ∧
  ∀ s : State, ∃ t f, exec .render s = .next t ∧
    (∀ x y, x < 240 → y < 240 →
      let w := composite s (bin s y) x y
      t.fb.readElem (y * 240 + x) = blend s.glob w.mainColor w.subColor w.colorMathFlag) ∧
    (∀ a, 115200 ≤ a → t.fb.readByte a = s.fb.readByte a) ∧
    t.frames = s.frames ++ [f] ∧ (∀ k, f.pixels.readElem k = t.fb.readElem k) ∧ f.byteSwap = s.params.fbByteSwap ∧
    t.scan = none ∧ OnlyChanges [.fb, .frames, .scan] s t

/-- COMPOSITE is the pixel start and then BG0, the low sprites, BG1, the high sprites, each sprite list in cache order (R170). -/
def Obligations.CompositeFixedOrder : Prop :=
  ∀ (s : State) (c : Caches) (x y : Nat),
    let w0 : Work := { mainColor := s.glob.defaultMain, subColor := s.glob.defaultSub, colorMathFlag := s.glob.cmathDefault }
    let w1 := bgStep s .bg0 x y w0
    let w2 := c.lo.foldl (spriteStepOne s x y) w1
    let w3 := bgStep s .bg1 x y w2
    composite s c x y = c.hi.foldl (spriteStepOne s x y) w3

/-- A frame depends only on the pipeline's inputs, not on the earlier frame buffer or any other state (45_frame_renderer.md; the
spec marks R213 as derived). -/
def Obligations.FrameDependsOnInputsOnly : Prop :=
  ∀ s s' : State, s.pipelineInputs = s'.pipelineInputs →
    ∃ t t', exec .render s = .next t ∧ exec .render s' = .next t' ∧ (∀ k, k < 57600 → t.fb.readElem k = t'.fb.readElem k)

/-- Two RENDERs with no command between them give the same frame buffer and send the same frame twice (46_commands.md,
R221). -/
def Obligations.RenderTwiceSameFrame : Prop :=
  ∀ s : State, ∃ t u f g, exec .render s = .next t ∧ exec .render t = .next u ∧ u.frames = s.frames ++ [f, g] ∧
    f.bytes = g.bytes ∧ (∀ k, k < 57600 → u.fb.readElem k = t.fb.readElem k)

/-- The frame image: 115200 bytes, two per element in row-major order, low byte first, or swapped with FB_BYTE_SWAP, which no
command switches (R70). -/
def Obligations.FrameImageBytes : Prop :=
  State.reset.params.fbByteSwap = false ∧
  (∀ (i : Instr) (s t : State), exec i s = .next t → t.params.fbByteSwap = s.params.fbByteSwap) ∧
  (∀ s : State, ∃ t f, exec .render s = .next t ∧ t.frames = s.frames ++ [f] ∧ f.byteSwap = s.params.fbByteSwap ∧
    ∀ k, f.pixels.readElem k = t.fb.readElem k) ∧
  ∀ f : FrameOut, f.bytes.length = 115200 ∧
    ∀ k, k < 57600 →
      (f.byteSwap = false → f.bytes[2 * k]? = some (slice (f.pixels.readElem k) 0 8) ∧ f.bytes[2 * k + 1]? = some (slice (f.pixels.readElem k) 8 8)) ∧
      (f.byteSwap = true → f.bytes[2 * k]? = some (slice (f.pixels.readElem k) 8 8) ∧ f.bytes[2 * k + 1]? = some (slice (f.pixels.readElem k) 0 8))

/-- With both layers and every sprite disabled the frame is uniform: BLEND(default_main, default_sub, cmath_default), which is
`default_main` when fade is off and the seed or colour math is off (45_frame_renderer.md; the spec marks R218 as derived). -/
def Obligations.UniformFrame : Prop :=
  ∀ s : State, s.bg0.enabled = false → s.bg1.enabled = false → (∀ i, (s.sprite i).enabled = false) →
    ∃ t, exec .render s = .next t ∧
      (∀ k, k < 57600 → t.fb.readElem k = blend s.glob s.glob.defaultMain s.glob.defaultSub s.glob.cmathDefault) ∧
      (s.glob.fadeEnable = false → s.glob.cmathEnable = false ∨ s.glob.cmathDefault = false →
        ∀ k, k < 57600 → t.fb.readElem k = s.glob.defaultMain)

/-- A RENDER right after reset gives the all-0x0000 frame (70_reset_and_hazards.md; the spec marks R272 as derived). -/
def Obligations.FrameAfterResetIsBlack : Prop :=
  ∃ t f, exec .render State.reset = .next t ∧ (∀ k, k < 57600 → t.fb.readElem k = 0) ∧ t.frames = [f] ∧ f.bytes = List.replicate 115200 0

/-! The invariant. -/

/-- The state after reset meets the invariant. -/
def Obligations.ResetMeetsInv : Prop := Inv State.reset

/-- Every step keeps the invariant: the planes stay canonical and within their size, the port never keeps a complete command,
CAUSE is 0 exactly when FAULT is 0, and no transient state outlives a RENDER. -/
def Obligations.StepKeepsInv : Prop := ∀ s t : State, Inv s → step s = .next t → Inv t
end

