-- ==== Sys2Proof/Laws/Binner.lean ====
section
/-! SUPPORT. Laws/Binner.lean: the closed form of BIN (R136), and what it says of every cached index. -/

namespace Sys2Proof.Machine

/-- The eligible indices of one priority class among descriptors numbered from `i` on, in ascending order (R136). -/
def candidates (f : BinFilter) (y : Nat) (priority : Bool) (ss : List Sprite) (i : Nat) : List Byte :=
  ((ss.zipIdx i).filter (fun p => eligible f y p.1 && p.1.priority == priority)).map (fun p => BitVec.ofNat 8 p.2)

theorem candidates_cons (f : BinFilter) (y : Nat) (pr : Bool) (s : Sprite) (ss : List Sprite) (i : Nat) :
    candidates f y pr (s :: ss) i =
      (if eligible f y s && s.priority == pr then [BitVec.ofNat 8 i] else []) ++ candidates f y pr ss (i + 1) := by
  simp only [candidates, List.zipIdx_cons, List.filter_cons]
  split <;> rfl

theorem take_append_full {α : Type} {n : Nat} {l : List α} (h : l.length = n) (m : List α) : (l ++ m).take n = l :=
  List.take_left' h

theorem take_append_singleton {α : Type} {n : Nat} {l : List α} (h : l.length ≤ n) (a : α) (m : List α) :
    (l ++ ([a] ++ m)).take n = ((if l.length < n then l ++ [a] else l) ++ m).take n := by
  split
  · rw [List.append_assoc]
  · have : l.length = n := by omega
    rw [take_append_full this, take_append_full this]

/-- The scan fills each list with the first indices of its class that fit (R134, R135, R136). -/
theorem binScan_eq (f : BinFilter) (y : Nat) (ss : List Sprite) :
    ∀ (i : Nat) (c : Caches), c.lo.length ≤ Config.cacheCap → c.hi.length ≤ Config.cacheCap →
      binScan f y ss i c =
        { lo := (c.lo ++ candidates f y false ss i).take Config.cacheCap
          hi := (c.hi ++ candidates f y true ss i).take Config.cacheCap } := by
  induction ss with
  | nil =>
    intro i c hl hh
    simp [binScan, candidates, List.take_of_length_le hl, List.take_of_length_le hh]
  | cons s ss ih =>
    intro i c hl hh
    rw [binScan]
    split
    · rename_i hfull
      rw [take_append_full hfull.1, take_append_full hfull.2]
    · simp only [candidates_cons]
      by_cases he : eligible f y s = true
      · rw [if_pos he]
        by_cases hp : s.priority = true
        · simp only [he, hp, binAppend, if_true, Bool.true_and, beq_self_eq_true]
          rw [take_append_singleton hh]
          by_cases hr : c.hi.length < Config.cacheCap
          · rw [if_pos hr, if_pos hr, ih (i + 1) { lo := c.lo, hi := c.hi ++ [BitVec.ofNat 8 i] } hl (by simpa using hr)]
            simp
          · rw [if_neg hr, if_neg hr, ih _ _ hl hh]
            simp
        · have hp' : s.priority = false := by simpa using hp
          simp only [he, hp', binAppend, Bool.true_and, beq_self_eq_true, if_true]
          rw [take_append_singleton hl]
          by_cases hr : c.lo.length < Config.cacheCap
          · simp only [hr, if_true, Bool.false_eq_true, if_false]
            rw [ih (i + 1) { lo := c.lo ++ [BitVec.ofNat 8 i], hi := c.hi } (by simpa using hr) hh]
            simp
          · simp only [hr, Bool.false_eq_true, if_false]
            rw [ih _ _ hl hh]
            simp
      · have he' : eligible f y s = false := by simpa using he
        rw [if_neg he, ih _ _ hl hh]
        simp [he']

/-- BIN(y) in closed form (R136). -/
theorem bin_eq (s : State) (y : Nat) :
    bin s y =
      { lo := (candidates s.params.binFilter y false s.oam.toList 0).take Config.cacheCap
        hi := (candidates s.params.binFilter y true s.oam.toList 0).take Config.cacheCap } := by
  rw [bin, binScan_eq _ _ _ _ _ (Nat.zero_le _) (Nat.zero_le _)]
  rfl

/-- A candidate is the index of an eligible descriptor of its class (R131 to R134). -/
theorem mem_candidates {s : State} {y : Nat} {pr : Bool} {i : Byte} (h : i ∈ candidates s.params.binFilter y pr s.oam.toList 0) :
    eligible s.params.binFilter y (s.sprite i) = true ∧ (s.sprite i).priority = pr := by
  obtain ⟨⟨p, k⟩, hp, rfl⟩ := List.mem_map.1 h
  obtain ⟨hmem, hel⟩ := List.mem_filter.1 hp
  have hk := List.mem_zipIdx hmem
  have hlt : k < 256 := by have := hk.2.1; simpa using this
  have hs : s.sprite (BitVec.ofNat 8 k) = p := by
    have := hk.2.2
    simp only [Nat.sub_zero] at this
    simp only [State.sprite, BitVec.toNat_ofNat, Nat.mod_eq_of_lt (show k < 2 ^ 8 from hlt)]
    rw [this]
    simp
  simp only [hs]
  simpa using hel

/-- Every cached sprite passed the binner's tests on this row, and is of its cache's class (R131 to R134). -/
theorem mem_bin {s : State} {y : Nat} {i : Byte} :
    (i ∈ (bin s y).lo → eligible s.params.binFilter y (s.sprite i) = true ∧ (s.sprite i).priority = false) ∧
      (i ∈ (bin s y).hi → eligible s.params.binFilter y (s.sprite i) = true ∧ (s.sprite i).priority = true) := by
  rw [bin_eq]
  exact ⟨fun h => mem_candidates (List.mem_of_mem_take h), fun h => mem_candidates (List.mem_of_mem_take h)⟩

/-- A cache never holds more than 16 indices (R45, R134). -/
theorem length_bin (s : State) (y : Nat) :
    (bin s y).lo.length ≤ Config.cacheCap ∧ (bin s y).hi.length ≤ Config.cacheCap := by
  rw [bin_eq]
  exact ⟨List.length_take_le _ _, List.length_take_le _ _⟩

end Sys2Proof.Machine
end

