-- ==== Sys2Proof/Laws/Memory.lean ====
section
/-! SUPPORT. Laws/Memory.lean: what reading a plane after a write gives, and that every write keeps the canonical form and the
plane's bounds. Nothing about a store has to hold for the read laws. -/

namespace Sys2Proof.Machine

theorem Memory.readByte_eq_find (m : Memory) (a : Nat) :
    m.readByte a = ((m.find? (fun c => c.1 == a)).map (·.2)).getD Memory.unlisted := by
  induction m with
  | nil => rfl
  | cons c m ih =>
    obtain ⟨k, v⟩ := c
    by_cases h : k = a <;> simp [Memory.readByte, h, ih]

theorem Memory.find_cells (a : Nat) (bs : List Byte) (b : Nat) :
    (Memory.cells a bs).find? (fun c => c.1 == b) =
      if a ≤ b ∧ b < a + bs.length ∧ bs.getD (b - a) 0#8 ≠ 0#8 then some (b, bs.getD (b - a) 0#8) else none := by
  induction bs generalizing a with
  | nil =>
    have : ¬ (a ≤ b ∧ b < a) := by omega
    simp [Memory.cells]
  | cons v bs ih =>
    rcases Nat.lt_trichotomy a b with h | h | h
    · obtain ⟨k, rfl⟩ : ∃ k, b = a + 1 + k := ⟨b - (a + 1), by omega⟩
      have e : a + 1 + k - a = k + 1 := by omega
      have e' : (a + 1 + k < a + (bs.length + 1)) ↔ (a + 1 + k < a + 1 + bs.length) := by omega
      have hne : a ≠ a + 1 + k := by omega
      have hle : a ≤ a + 1 + k := by omega
      by_cases hv : v = Memory.unlisted <;> simp [Memory.cells, hv, ih, e, e', hne, hle]
    · subst h
      have hn : ¬ (a + 1 ≤ a) := by omega
      by_cases hv : v = Memory.unlisted
      · simp [Memory.cells, hv, ih]
      · simp [Memory.cells, hv]
    · have h1 : ¬ (a ≤ b) := by omega
      have h2 : ¬ (a + 1 ≤ b) := by omega
      have hne : a ≠ b := by omega
      by_cases hv : v = Memory.unlisted <;> simp [Memory.cells, hv, ih, h1, h2, hne]

/-- A byte of the run reads as the run's byte, every other byte as before. -/
theorem Memory.readByte_writeBytes (m : Memory) (a : Nat) (bs : List Byte) (b : Nat) :
    (m.writeBytes a bs).readByte b = if a ≤ b ∧ b < a + bs.length then bs.getD (b - a) 0#8 else m.readByte b := by
  have key (p : Nat → Bool) : (m.filter (fun c => p c.1)).find? (fun c => c.1 == b) =
      if p b then m.find? (fun c => c.1 == b) else none := by
    rw [List.find?_filter]
    by_cases hp : p b
    · simp only [hp, if_true]
      congr 1
      funext c
      by_cases hc : c.1 = b <;> simp [hc, hp]
    · rw [if_neg hp, List.find?_eq_none]
      intro c _
      by_cases hc : c.1 = b <;> simp [hc, hp]
  rw [Memory.readByte_eq_find, Memory.writeBytes, List.find?_append, List.find?_append, key (fun k => decide (k < a)),
    key (fun k => decide (a + bs.length ≤ k)), Memory.find_cells, Memory.readByte_eq_find m]
  rcases Nat.lt_or_ge b a with h | h
  · have h1 : ¬ (a ≤ b) := by omega
    have h2 : ¬ (a + bs.length ≤ b) := by omega
    simp [h, h1, h2]
  · by_cases h2 : a + bs.length ≤ b
    · have h3 : ¬ (b < a + bs.length) := by omega
      have h1 : ¬ (b < a) := by omega
      simp [h1, h2, h3]
    · have h3 : b < a + bs.length := by omega
      have h1 : ¬ (b < a) := by omega
      by_cases hz : bs.getD (b - a) 0#8 = 0#8
      · simp only [List.getD_eq_getElem?_getD] at hz
        simp [h, h1, h2, h3, hz]
      · simp only [List.getD_eq_getElem?_getD] at hz
        simp [h, h1, h2, h3, hz]

theorem Memory.mem_cells {a : Nat} {bs : List Byte} {c : Host.Cell} (h : c ∈ Memory.cells a bs) :
    a ≤ c.1 ∧ c.1 < a + bs.length ∧ c.2 ≠ Memory.unlisted := by
  induction bs generalizing a with
  | nil => simp [Memory.cells] at h
  | cons b bs ih =>
    simp only [Memory.cells, List.length_cons] at h ⊢
    split at h
    · obtain ⟨h1, h2, h3⟩ := ih h
      exact ⟨by omega, by omega, h3⟩
    · rcases List.mem_cons.1 h with rfl | h
      · exact ⟨Nat.le_refl _, by simp, by assumption⟩
      · obtain ⟨h1, h2, h3⟩ := ih h
        exact ⟨by omega, by omega, h3⟩

theorem Memory.cells_pairwise (a : Nat) (bs : List Byte) : (Memory.cells a bs).Pairwise (fun c d => c.1 < d.1) := by
  induction bs generalizing a with
  | nil => exact List.Pairwise.nil
  | cons b bs ih =>
    simp only [Memory.cells]
    split
    · exact ih _
    · exact List.pairwise_cons.2 ⟨fun c hc => (Memory.mem_cells hc).1, ih _⟩

/-- A write keeps the canonical form. -/
theorem Memory.wf_writeBytes {m : Memory} (h : m.wf) (a : Nat) (bs : List Byte) : (m.writeBytes a bs).wf := by
  refine ⟨?_, ?_⟩
  · simp only [Memory.writeBytes, List.append_assoc, List.pairwise_append]
    refine ⟨h.1.filter _, ⟨Memory.cells_pairwise _ _, h.1.filter _, ?_⟩, ?_⟩
    · intro c hc d hd
      have h1 := (Memory.mem_cells hc).2.1
      have h2 := (List.mem_filter.1 hd).2
      simp only [decide_eq_true_eq] at h2
      omega
    · intro c hc d hd
      have h1 := (List.mem_filter.1 hc).2
      simp only [decide_eq_true_eq] at h1
      rcases List.mem_append.1 hd with hd | hd
      · have := (Memory.mem_cells hd).1; omega
      · have h2 := (List.mem_filter.1 hd).2
        simp only [decide_eq_true_eq] at h2
        omega
  · intro c hc
    simp only [Memory.writeBytes, List.mem_append] at hc
    rcases hc with (hc | hc) | hc
    · exact h.2 c (List.mem_filter.1 hc).1
    · exact (Memory.mem_cells hc).2.2
    · exact h.2 c (List.mem_filter.1 hc).1

/-- A write inside the plane keeps the store inside the plane. -/
theorem Memory.within_writeBytes {n : Nat} {m : Memory} (h : m.within n) {a : Nat} {bs : List Byte}
    (hb : a + bs.length ≤ n) : (m.writeBytes a bs).within n := by
  intro c hc
  simp only [Memory.writeBytes, List.mem_append] at hc
  rcases hc with (hc | hc) | hc
  · exact h c (List.mem_filter.1 hc).1
  · have := (Memory.mem_cells hc).2.1; omega
  · exact h c (List.mem_filter.1 hc).1

/-! Elements. -/

theorem elemBytes_join (c : Colour) : (slice c 8 8 ++ slice c 0 8 : Colour) = c := by
  ext i hi
  simp only [BitVec.getElem_append, BitVec.getElem_extractLsb']
  split
  · simp [BitVec.getLsbD_eq_getElem hi]
  · have h8 : 8 ≤ i := by omega
    simp [Nat.add_sub_cancel' h8, BitVec.getLsbD_eq_getElem hi]

theorem length_elemBytes (cs : List Colour) : (cs.flatMap elemBytes).length = 2 * cs.length := by
  induction cs with
  | nil => rfl
  | cons c cs ih => simp only [List.flatMap_cons, List.length_append, ih, List.length_cons, elemBytes, List.length_nil]; omega

theorem getD_elemBytes (cs : List Colour) (k : Nat) :
    (cs.flatMap elemBytes).getD (2 * k) 0#8 = slice (cs.getD k 0#16) 0 8 ∧
      (cs.flatMap elemBytes).getD (2 * k + 1) 0#8 = slice (cs.getD k 0#16) 8 8 := by
  induction cs generalizing k with
  | nil => exact ⟨by simp, by simp⟩
  | cons c cs ih =>
    cases k with
    | zero => simp [elemBytes]
    | succ k =>
      have := ih k
      simpa [elemBytes, Nat.mul_succ] using this

/-- An element of the run reads as the run's element, every other element as before (R63). -/
theorem Memory.readElem_writeElems (m : Memory) (i : Nat) (cs : List Colour) (j : Nat) :
    (m.writeElems i cs).readElem j = if i ≤ j ∧ j < i + cs.length then cs.getD (j - i) 0#16 else m.readElem j := by
  simp only [Memory.readElem, Memory.writeElems, Memory.readByte_writeBytes, length_elemBytes]
  by_cases h : i ≤ j ∧ j < i + cs.length
  · have h1 : 2 * i ≤ 2 * j + 1 ∧ 2 * j + 1 < 2 * i + 2 * cs.length := by omega
    have h2 : 2 * i ≤ 2 * j ∧ 2 * j < 2 * i + 2 * cs.length := by omega
    have e1 : 2 * j + 1 - 2 * i = 2 * (j - i) + 1 := by omega
    have e2 : 2 * j - 2 * i = 2 * (j - i) := by omega
    rw [if_pos h1, if_pos h2, if_pos h, e1, e2, (getD_elemBytes cs (j - i)).1, (getD_elemBytes cs (j - i)).2, elemBytes_join]
  · have h1 : ¬ (2 * i ≤ 2 * j + 1 ∧ 2 * j + 1 < 2 * i + 2 * cs.length) := by omega
    have h2 : ¬ (2 * i ≤ 2 * j ∧ 2 * j < 2 * i + 2 * cs.length) := by omega
    rw [if_neg h1, if_neg h2, if_neg h]

/-- A byte outside the run's elements reads as before. -/
theorem Memory.readByte_writeElems_outside (m : Memory) (i : Nat) (cs : List Colour) (b : Nat)
    (h : ¬ (2 * i ≤ b ∧ b < 2 * (i + cs.length))) : (m.writeElems i cs).readByte b = m.readByte b := by
  rw [Memory.writeElems, Memory.readByte_writeBytes, length_elemBytes, if_neg (by omega)]

theorem Memory.wf_writeElems {m : Memory} (h : m.wf) (i : Nat) (cs : List Colour) : (m.writeElems i cs).wf :=
  Memory.wf_writeBytes h _ _

theorem Memory.within_writeElems {n : Nat} {m : Memory} (h : m.within (2 * n)) {i : Nat} {cs : List Colour}
    (hb : i + cs.length ≤ n) : (m.writeElems i cs).within (2 * n) :=
  Memory.within_writeBytes h (by rw [length_elemBytes]; omega)

/-- The empty store is canonical and inside every plane. -/
theorem Memory.wf_nil : Memory.wf [] := ⟨List.Pairwise.nil, nofun⟩

theorem Memory.within_nil (n : Nat) : Memory.within n [] := nofun

end Sys2Proof.Machine
end

