-- ==== Sys2Proof/Laws/Blit.lean ====
section
/-! SUPPORT. Laws/Blit.lean: what a blit that fits its plane leaves in it (R224, R225), and what it leaves alone. -/

namespace Sys2Proof.Machine

/-- An element lies in the run `[y * W + x, y * W + x + w)` of one row exactly when it is on that row and in those columns. -/
theorem planeIndex_in_row {W x w y r c : Nat} (hx : x + w ≤ W) (hc : c < W) :
    (y * W + x ≤ r * W + c ∧ r * W + c < y * W + x + w) ↔ (r = y ∧ x ≤ c ∧ c < x + w) := by
  rcases Nat.lt_trichotomy r y with h | h | h
  · have : (r + 1) * W ≤ y * W := Nat.mul_le_mul_right W h
    have e : (r + 1) * W = r * W + W := Nat.succ_mul r W
    exact ⟨fun k => by omega, fun k => by omega⟩
  · subst h
    exact ⟨fun k => ⟨rfl, by omega⟩, fun k => by omega⟩
  · have : (y + 1) * W ≤ r * W := Nat.mul_le_mul_right W h
    have e : (y + 1) * W = y * W + W := Nat.succ_mul y W
    exact ⟨fun k => by omega, fun k => by omega⟩

/-- The elements of the blit's region read as its pixels, row-major; every other element as before (R100, R224). -/
theorem planeRead_blitRows {W x w : Nat} (hx : x + w ≤ W) {r c : Nat} (hc : c < W) (h : Nat) :
    ∀ (y : Nat) (px : List Colour) (m : Memory), px.length = w * h →
      (blitRows W x w y h px m).planeRead W r c =
        if (y ≤ r ∧ r < y + h) ∧ x ≤ c ∧ c < x + w then px.getD ((r - y) * w + (c - x)) 0#16 else m.planeRead W r c := by
  induction h with
  | zero =>
    intro y px m _
    have : ¬ ((y ≤ r ∧ r < y + 0) ∧ x ≤ c ∧ c < x + w) := by omega
    rw [if_neg this]; rfl
  | succ h ih =>
    intro y px m hl
    have hlen : (px.take w).length = w := by rw [List.length_take, hl, Nat.mul_succ]; omega
    rw [blitRows, ih (y + 1) (px.drop w) _ (by rw [List.length_drop, hl, Nat.mul_succ]; omega)]
    simp only [Memory.planeRead, Memory.planeWriteRow, planeIndex, Memory.readElem_writeElems, hlen, planeIndex_in_row hx hc]
    by_cases hcol : x ≤ c ∧ c < x + w
    · rcases Nat.lt_trichotomy r y with hr | hr | hr
      · have h1 : ¬ (y + 1 ≤ r ∧ r < y + 1 + h) := by omega
        have h2 : ¬ (y ≤ r ∧ r < y + (h + 1)) := by omega
        have h3 : r ≠ y := by omega
        rw [if_neg (fun k => h1 k.1), if_neg (fun k => h3 k.1), if_neg (fun k => h2 k.1)]
      · subst hr
        have h1 : ¬ (r + 1 ≤ r ∧ r < r + 1 + h) := by omega
        have e : r * W + c - (r * W + x) = c - x := by omega
        have hk : c - x < w := by omega
        rw [if_neg (fun k => h1 k.1), if_pos ⟨rfl, hcol⟩, if_pos ⟨⟨Nat.le_refl r, by omega⟩, hcol⟩, e, Nat.sub_self, Nat.zero_mul, Nat.zero_add,
          List.getD_eq_getElem?_getD, List.getD_eq_getElem?_getD, List.getElem?_take_of_lt hk]
      · have h1 : (y + 1 ≤ r ∧ r < y + 1 + h) ↔ (y ≤ r ∧ r < y + (h + 1)) := by omega
        have h3 : ¬ (r = y ∧ x ≤ c ∧ c < x + w) := by omega
        have e : w + ((r - (y + 1)) * w + (c - x)) = (r - y) * w + (c - x) := by
          have : r - y = (r - (y + 1)) + 1 := by omega
          rw [this, Nat.succ_mul]; omega
        rw [if_neg h3]
        simp only [h1, List.getD_eq_getElem?_getD, List.getElem?_drop, e]
    · have h1 : ¬ (r = y ∧ x ≤ c ∧ c < x + w) := fun k => hcol k.2
      rw [if_neg (fun k => hcol k.2), if_neg h1, if_neg (fun k => hcol k.2)]

/-- A byte outside the region reads as before. -/
theorem readByte_blitRows_outside {W x w : Nat} (hx : x + w ≤ W) (hW : 0 < W) {b : Nat} (h : Nat) :
    ∀ (y : Nat) (px : List Colour) (m : Memory), px.length = w * h →
      ¬ ((y ≤ b / 2 / W ∧ b / 2 / W < y + h) ∧ x ≤ b / 2 % W ∧ b / 2 % W < x + w) →
      (blitRows W x w y h px m).readByte b = m.readByte b := by
  induction h with
  | zero => intro y px m _ _; rfl
  | succ h ih =>
    intro y px m hl hout
    have hlen : (px.take w).length = w := by rw [List.length_take, hl, Nat.mul_succ]; omega
    rw [blitRows, ih (y + 1) (px.drop w) _ (by rw [List.length_drop, hl, Nat.mul_succ]; omega) (fun k => hout (by omega))]
    refine Memory.readByte_writeElems_outside _ _ _ _ (fun k => ?_)
    rw [hlen, planeIndex] at k
    have hdiv : b / 2 / W * W + b / 2 % W = b / 2 := Nat.div_add_mod' _ _
    have hb := (planeIndex_in_row (r := b / 2 / W) (y := y) hx (Nat.mod_lt (b / 2) hW)).1 (by omega)
    exact hout ⟨by omega, hb.2⟩

/-- A blit keeps the canonical form. -/
theorem Memory.wf_blitRows {W x w : Nat} (h : Nat) : ∀ (y : Nat) (px : List Colour) (m : Memory), m.wf → (blitRows W x w y h px m).wf := by
  induction h with
  | zero => intro y px m hm; exact hm
  | succ h ih => intro y px m hm; exact ih _ _ _ (Memory.wf_writeElems hm _ _)

/-- A blit that fits keeps the store inside the plane. -/
theorem Memory.within_blitRows {W x w n : Nat} (hx : x + w ≤ W) (h : Nat) :
    ∀ (y : Nat) (px : List Colour) (m : Memory), y + h ≤ n → m.within (2 * (n * W)) → (blitRows W x w y h px m).within (2 * (n * W)) := by
  induction h with
  | zero => intro y px m _ hm; exact hm
  | succ h ih =>
    intro y px m hy hm
    refine ih _ _ _ (by omega) (Memory.within_writeElems hm ?_)
    have h1 : (y + 1) * W ≤ n * W := Nat.mul_le_mul_right W (by omega)
    have h2 : (px.take w).length ≤ w := List.length_take_le _ _
    rw [Nat.succ_mul] at h1
    simp only [planeIndex]
    omega

end Sys2Proof.Machine
end

