-- ==== Sys2Proof/Laws/State.lean ====
section
/-! SUPPORT. Laws/State.lean: one lemma per field per update of the State, so that no later proof unfolds a record update. -/

namespace Sys2Proof.Machine

section accept
variable (s : State) (r : List HostInput)

@[simp] theorem State.accept_params : (s.accept r).params = s.params := rfl
@[simp] theorem State.accept_oam : (s.accept r).oam = s.oam := rfl
@[simp] theorem State.accept_bg0 : (s.accept r).bg0 = s.bg0 := rfl
@[simp] theorem State.accept_bg1 : (s.accept r).bg1 = s.bg1 := rfl
@[simp] theorem State.accept_map0 : (s.accept r).map0 = s.map0 := rfl
@[simp] theorem State.accept_map1 : (s.accept r).map1 = s.map1 := rfl
@[simp] theorem State.accept_sheet : (s.accept r).sheet = s.sheet := rfl
@[simp] theorem State.accept_glob : (s.accept r).glob = s.glob := rfl
@[simp] theorem State.accept_status : (s.accept r).status = s.status := rfl
@[simp] theorem State.accept_fb : (s.accept r).fb = s.fb := rfl
@[simp] theorem State.accept_port : (s.accept r).port = .idle := rfl
@[simp] theorem State.accept_scan : (s.accept r).scan = s.scan := rfl
@[simp] theorem State.accept_input : (s.accept r).input = r := rfl
@[simp] theorem State.accept_responses : (s.accept r).responses = s.responses := rfl
@[simp] theorem State.accept_frames : (s.accept r).frames = s.frames := rfl

end accept

section setPort
variable (s : State) (p : Port) (r : List HostInput)

@[simp] theorem State.setPort_params : (s.setPort p r).params = s.params := rfl
@[simp] theorem State.setPort_oam : (s.setPort p r).oam = s.oam := rfl
@[simp] theorem State.setPort_bg0 : (s.setPort p r).bg0 = s.bg0 := rfl
@[simp] theorem State.setPort_bg1 : (s.setPort p r).bg1 = s.bg1 := rfl
@[simp] theorem State.setPort_map0 : (s.setPort p r).map0 = s.map0 := rfl
@[simp] theorem State.setPort_map1 : (s.setPort p r).map1 = s.map1 := rfl
@[simp] theorem State.setPort_sheet : (s.setPort p r).sheet = s.sheet := rfl
@[simp] theorem State.setPort_glob : (s.setPort p r).glob = s.glob := rfl
@[simp] theorem State.setPort_status : (s.setPort p r).status = s.status := rfl
@[simp] theorem State.setPort_fb : (s.setPort p r).fb = s.fb := rfl
@[simp] theorem State.setPort_port : (s.setPort p r).port = p := rfl
@[simp] theorem State.setPort_scan : (s.setPort p r).scan = s.scan := rfl
@[simp] theorem State.setPort_input : (s.setPort p r).input = r := rfl
@[simp] theorem State.setPort_responses : (s.setPort p r).responses = s.responses := rfl
@[simp] theorem State.setPort_frames : (s.setPort p r).frames = s.frames := rfl

end setPort

section respond
variable (s : State) (w : Word)

@[simp] theorem State.respond_params : (s.respond w).params = s.params := rfl
@[simp] theorem State.respond_oam : (s.respond w).oam = s.oam := rfl
@[simp] theorem State.respond_bg0 : (s.respond w).bg0 = s.bg0 := rfl
@[simp] theorem State.respond_bg1 : (s.respond w).bg1 = s.bg1 := rfl
@[simp] theorem State.respond_map0 : (s.respond w).map0 = s.map0 := rfl
@[simp] theorem State.respond_map1 : (s.respond w).map1 = s.map1 := rfl
@[simp] theorem State.respond_sheet : (s.respond w).sheet = s.sheet := rfl
@[simp] theorem State.respond_glob : (s.respond w).glob = s.glob := rfl
@[simp] theorem State.respond_status : (s.respond w).status = s.status := rfl
@[simp] theorem State.respond_fb : (s.respond w).fb = s.fb := rfl
@[simp] theorem State.respond_port : (s.respond w).port = s.port := rfl
@[simp] theorem State.respond_scan : (s.respond w).scan = s.scan := rfl
@[simp] theorem State.respond_input : (s.respond w).input = s.input := rfl
@[simp] theorem State.respond_responses : (s.respond w).responses = s.responses ++ [w] := rfl
@[simp] theorem State.respond_frames : (s.respond w).frames = s.frames := rfl

end respond

section setStatus
variable (s : State) (t : Status)

@[simp] theorem State.setStatus_params : (s.setStatus t).params = s.params := rfl
@[simp] theorem State.setStatus_oam : (s.setStatus t).oam = s.oam := rfl
@[simp] theorem State.setStatus_bg0 : (s.setStatus t).bg0 = s.bg0 := rfl
@[simp] theorem State.setStatus_bg1 : (s.setStatus t).bg1 = s.bg1 := rfl
@[simp] theorem State.setStatus_map0 : (s.setStatus t).map0 = s.map0 := rfl
@[simp] theorem State.setStatus_map1 : (s.setStatus t).map1 = s.map1 := rfl
@[simp] theorem State.setStatus_sheet : (s.setStatus t).sheet = s.sheet := rfl
@[simp] theorem State.setStatus_glob : (s.setStatus t).glob = s.glob := rfl
@[simp] theorem State.setStatus_status : (s.setStatus t).status = t := rfl
@[simp] theorem State.setStatus_fb : (s.setStatus t).fb = s.fb := rfl
@[simp] theorem State.setStatus_port : (s.setStatus t).port = s.port := rfl
@[simp] theorem State.setStatus_scan : (s.setStatus t).scan = s.scan := rfl
@[simp] theorem State.setStatus_input : (s.setStatus t).input = s.input := rfl
@[simp] theorem State.setStatus_responses : (s.setStatus t).responses = s.responses := rfl
@[simp] theorem State.setStatus_frames : (s.setStatus t).frames = s.frames := rfl

end setStatus

section setGlob
variable (s : State) (g : Glob)

@[simp] theorem State.setGlob_params : (s.setGlob g).params = s.params := rfl
@[simp] theorem State.setGlob_oam : (s.setGlob g).oam = s.oam := rfl
@[simp] theorem State.setGlob_bg0 : (s.setGlob g).bg0 = s.bg0 := rfl
@[simp] theorem State.setGlob_bg1 : (s.setGlob g).bg1 = s.bg1 := rfl
@[simp] theorem State.setGlob_map0 : (s.setGlob g).map0 = s.map0 := rfl
@[simp] theorem State.setGlob_map1 : (s.setGlob g).map1 = s.map1 := rfl
@[simp] theorem State.setGlob_sheet : (s.setGlob g).sheet = s.sheet := rfl
@[simp] theorem State.setGlob_glob : (s.setGlob g).glob = g := rfl
@[simp] theorem State.setGlob_status : (s.setGlob g).status = s.status := rfl
@[simp] theorem State.setGlob_fb : (s.setGlob g).fb = s.fb := rfl
@[simp] theorem State.setGlob_port : (s.setGlob g).port = s.port := rfl
@[simp] theorem State.setGlob_scan : (s.setGlob g).scan = s.scan := rfl
@[simp] theorem State.setGlob_input : (s.setGlob g).input = s.input := rfl
@[simp] theorem State.setGlob_responses : (s.setGlob g).responses = s.responses := rfl
@[simp] theorem State.setGlob_frames : (s.setGlob g).frames = s.frames := rfl

end setGlob

section setFb
variable (s : State) (m : Memory)

@[simp] theorem State.setFb_params : (s.setFb m).params = s.params := rfl
@[simp] theorem State.setFb_oam : (s.setFb m).oam = s.oam := rfl
@[simp] theorem State.setFb_bg0 : (s.setFb m).bg0 = s.bg0 := rfl
@[simp] theorem State.setFb_bg1 : (s.setFb m).bg1 = s.bg1 := rfl
@[simp] theorem State.setFb_map0 : (s.setFb m).map0 = s.map0 := rfl
@[simp] theorem State.setFb_map1 : (s.setFb m).map1 = s.map1 := rfl
@[simp] theorem State.setFb_sheet : (s.setFb m).sheet = s.sheet := rfl
@[simp] theorem State.setFb_glob : (s.setFb m).glob = s.glob := rfl
@[simp] theorem State.setFb_status : (s.setFb m).status = s.status := rfl
@[simp] theorem State.setFb_fb : (s.setFb m).fb = m := rfl
@[simp] theorem State.setFb_port : (s.setFb m).port = s.port := rfl
@[simp] theorem State.setFb_scan : (s.setFb m).scan = s.scan := rfl
@[simp] theorem State.setFb_input : (s.setFb m).input = s.input := rfl
@[simp] theorem State.setFb_responses : (s.setFb m).responses = s.responses := rfl
@[simp] theorem State.setFb_frames : (s.setFb m).frames = s.frames := rfl

end setFb

section setSheet
variable (s : State) (m : Memory)

@[simp] theorem State.setSheet_params : (s.setSheet m).params = s.params := rfl
@[simp] theorem State.setSheet_oam : (s.setSheet m).oam = s.oam := rfl
@[simp] theorem State.setSheet_bg0 : (s.setSheet m).bg0 = s.bg0 := rfl
@[simp] theorem State.setSheet_bg1 : (s.setSheet m).bg1 = s.bg1 := rfl
@[simp] theorem State.setSheet_map0 : (s.setSheet m).map0 = s.map0 := rfl
@[simp] theorem State.setSheet_map1 : (s.setSheet m).map1 = s.map1 := rfl
@[simp] theorem State.setSheet_sheet : (s.setSheet m).sheet = m := rfl
@[simp] theorem State.setSheet_glob : (s.setSheet m).glob = s.glob := rfl
@[simp] theorem State.setSheet_status : (s.setSheet m).status = s.status := rfl
@[simp] theorem State.setSheet_fb : (s.setSheet m).fb = s.fb := rfl
@[simp] theorem State.setSheet_port : (s.setSheet m).port = s.port := rfl
@[simp] theorem State.setSheet_scan : (s.setSheet m).scan = s.scan := rfl
@[simp] theorem State.setSheet_input : (s.setSheet m).input = s.input := rfl
@[simp] theorem State.setSheet_responses : (s.setSheet m).responses = s.responses := rfl
@[simp] theorem State.setSheet_frames : (s.setSheet m).frames = s.frames := rfl

end setSheet

section setScan
variable (s : State) (k : Option Scan)

@[simp] theorem State.setScan_params : (s.setScan k).params = s.params := rfl
@[simp] theorem State.setScan_oam : (s.setScan k).oam = s.oam := rfl
@[simp] theorem State.setScan_bg0 : (s.setScan k).bg0 = s.bg0 := rfl
@[simp] theorem State.setScan_bg1 : (s.setScan k).bg1 = s.bg1 := rfl
@[simp] theorem State.setScan_map0 : (s.setScan k).map0 = s.map0 := rfl
@[simp] theorem State.setScan_map1 : (s.setScan k).map1 = s.map1 := rfl
@[simp] theorem State.setScan_sheet : (s.setScan k).sheet = s.sheet := rfl
@[simp] theorem State.setScan_glob : (s.setScan k).glob = s.glob := rfl
@[simp] theorem State.setScan_status : (s.setScan k).status = s.status := rfl
@[simp] theorem State.setScan_fb : (s.setScan k).fb = s.fb := rfl
@[simp] theorem State.setScan_port : (s.setScan k).port = s.port := rfl
@[simp] theorem State.setScan_scan : (s.setScan k).scan = k := rfl
@[simp] theorem State.setScan_input : (s.setScan k).input = s.input := rfl
@[simp] theorem State.setScan_responses : (s.setScan k).responses = s.responses := rfl
@[simp] theorem State.setScan_frames : (s.setScan k).frames = s.frames := rfl

end setScan

section emitFrame
variable (s : State) (f : FrameOut)

@[simp] theorem State.emitFrame_params : (s.emitFrame f).params = s.params := rfl
@[simp] theorem State.emitFrame_oam : (s.emitFrame f).oam = s.oam := rfl
@[simp] theorem State.emitFrame_bg0 : (s.emitFrame f).bg0 = s.bg0 := rfl
@[simp] theorem State.emitFrame_bg1 : (s.emitFrame f).bg1 = s.bg1 := rfl
@[simp] theorem State.emitFrame_map0 : (s.emitFrame f).map0 = s.map0 := rfl
@[simp] theorem State.emitFrame_map1 : (s.emitFrame f).map1 = s.map1 := rfl
@[simp] theorem State.emitFrame_sheet : (s.emitFrame f).sheet = s.sheet := rfl
@[simp] theorem State.emitFrame_glob : (s.emitFrame f).glob = s.glob := rfl
@[simp] theorem State.emitFrame_status : (s.emitFrame f).status = s.status := rfl
@[simp] theorem State.emitFrame_fb : (s.emitFrame f).fb = s.fb := rfl
@[simp] theorem State.emitFrame_port : (s.emitFrame f).port = s.port := rfl
@[simp] theorem State.emitFrame_scan : (s.emitFrame f).scan = s.scan := rfl
@[simp] theorem State.emitFrame_input : (s.emitFrame f).input = s.input := rfl
@[simp] theorem State.emitFrame_responses : (s.emitFrame f).responses = s.responses := rfl
@[simp] theorem State.emitFrame_frames : (s.emitFrame f).frames = s.frames ++ [f] := rfl

end emitFrame

section setSprite
variable (s : State) (i : Byte) (p : Sprite)

@[simp] theorem State.setSprite_params : (s.setSprite i p).params = s.params := rfl
@[simp] theorem State.setSprite_oam : (s.setSprite i p).oam = s.oam.set i.toNat p i.isLt := rfl
@[simp] theorem State.setSprite_bg0 : (s.setSprite i p).bg0 = s.bg0 := rfl
@[simp] theorem State.setSprite_bg1 : (s.setSprite i p).bg1 = s.bg1 := rfl
@[simp] theorem State.setSprite_map0 : (s.setSprite i p).map0 = s.map0 := rfl
@[simp] theorem State.setSprite_map1 : (s.setSprite i p).map1 = s.map1 := rfl
@[simp] theorem State.setSprite_sheet : (s.setSprite i p).sheet = s.sheet := rfl
@[simp] theorem State.setSprite_glob : (s.setSprite i p).glob = s.glob := rfl
@[simp] theorem State.setSprite_status : (s.setSprite i p).status = s.status := rfl
@[simp] theorem State.setSprite_fb : (s.setSprite i p).fb = s.fb := rfl
@[simp] theorem State.setSprite_port : (s.setSprite i p).port = s.port := rfl
@[simp] theorem State.setSprite_scan : (s.setSprite i p).scan = s.scan := rfl
@[simp] theorem State.setSprite_input : (s.setSprite i p).input = s.input := rfl
@[simp] theorem State.setSprite_responses : (s.setSprite i p).responses = s.responses := rfl
@[simp] theorem State.setSprite_frames : (s.setSprite i p).frames = s.frames := rfl

end setSprite

section clearOam
variable (s : State)

@[simp] theorem State.clearOam_params : (s.clearOam).params = s.params := rfl
@[simp] theorem State.clearOam_oam : (s.clearOam).oam = Vector.replicate 256 Sprite.default := rfl
@[simp] theorem State.clearOam_bg0 : (s.clearOam).bg0 = s.bg0 := rfl
@[simp] theorem State.clearOam_bg1 : (s.clearOam).bg1 = s.bg1 := rfl
@[simp] theorem State.clearOam_map0 : (s.clearOam).map0 = s.map0 := rfl
@[simp] theorem State.clearOam_map1 : (s.clearOam).map1 = s.map1 := rfl
@[simp] theorem State.clearOam_sheet : (s.clearOam).sheet = s.sheet := rfl
@[simp] theorem State.clearOam_glob : (s.clearOam).glob = s.glob := rfl
@[simp] theorem State.clearOam_status : (s.clearOam).status = s.status := rfl
@[simp] theorem State.clearOam_fb : (s.clearOam).fb = s.fb := rfl
@[simp] theorem State.clearOam_port : (s.clearOam).port = s.port := rfl
@[simp] theorem State.clearOam_scan : (s.clearOam).scan = s.scan := rfl
@[simp] theorem State.clearOam_input : (s.clearOam).input = s.input := rfl
@[simp] theorem State.clearOam_responses : (s.clearOam).responses = s.responses := rfl
@[simp] theorem State.clearOam_frames : (s.clearOam).frames = s.frames := rfl

end clearOam

section setLayer
variable (s : State) (l : LayerId) (b : Layer)

@[simp] theorem State.setLayer_params : (s.setLayer l b).params = s.params := by cases l <;> rfl
@[simp] theorem State.setLayer_oam : (s.setLayer l b).oam = s.oam := by cases l <;> rfl
@[simp] theorem State.setLayer_bg0 : (s.setLayer l b).bg0 = if l = .bg0 then b else s.bg0 := by cases l <;> rfl
@[simp] theorem State.setLayer_bg1 : (s.setLayer l b).bg1 = if l = .bg1 then b else s.bg1 := by cases l <;> rfl
@[simp] theorem State.setLayer_map0 : (s.setLayer l b).map0 = s.map0 := by cases l <;> rfl
@[simp] theorem State.setLayer_map1 : (s.setLayer l b).map1 = s.map1 := by cases l <;> rfl
@[simp] theorem State.setLayer_sheet : (s.setLayer l b).sheet = s.sheet := by cases l <;> rfl
@[simp] theorem State.setLayer_glob : (s.setLayer l b).glob = s.glob := by cases l <;> rfl
@[simp] theorem State.setLayer_status : (s.setLayer l b).status = s.status := by cases l <;> rfl
@[simp] theorem State.setLayer_fb : (s.setLayer l b).fb = s.fb := by cases l <;> rfl
@[simp] theorem State.setLayer_port : (s.setLayer l b).port = s.port := by cases l <;> rfl
@[simp] theorem State.setLayer_scan : (s.setLayer l b).scan = s.scan := by cases l <;> rfl
@[simp] theorem State.setLayer_input : (s.setLayer l b).input = s.input := by cases l <;> rfl
@[simp] theorem State.setLayer_responses : (s.setLayer l b).responses = s.responses := by cases l <;> rfl
@[simp] theorem State.setLayer_frames : (s.setLayer l b).frames = s.frames := by cases l <;> rfl

end setLayer

section setMap
variable (s : State) (l : LayerId) (m : Memory)

@[simp] theorem State.setMap_params : (s.setMap l m).params = s.params := by cases l <;> rfl
@[simp] theorem State.setMap_oam : (s.setMap l m).oam = s.oam := by cases l <;> rfl
@[simp] theorem State.setMap_bg0 : (s.setMap l m).bg0 = s.bg0 := by cases l <;> rfl
@[simp] theorem State.setMap_bg1 : (s.setMap l m).bg1 = s.bg1 := by cases l <;> rfl
@[simp] theorem State.setMap_map0 : (s.setMap l m).map0 = if l = .bg0 then m else s.map0 := by cases l <;> rfl
@[simp] theorem State.setMap_map1 : (s.setMap l m).map1 = if l = .bg1 then m else s.map1 := by cases l <;> rfl
@[simp] theorem State.setMap_sheet : (s.setMap l m).sheet = s.sheet := by cases l <;> rfl
@[simp] theorem State.setMap_glob : (s.setMap l m).glob = s.glob := by cases l <;> rfl
@[simp] theorem State.setMap_status : (s.setMap l m).status = s.status := by cases l <;> rfl
@[simp] theorem State.setMap_fb : (s.setMap l m).fb = s.fb := by cases l <;> rfl
@[simp] theorem State.setMap_port : (s.setMap l m).port = s.port := by cases l <;> rfl
@[simp] theorem State.setMap_scan : (s.setMap l m).scan = s.scan := by cases l <;> rfl
@[simp] theorem State.setMap_input : (s.setMap l m).input = s.input := by cases l <;> rfl
@[simp] theorem State.setMap_responses : (s.setMap l m).responses = s.responses := by cases l <;> rfl
@[simp] theorem State.setMap_frames : (s.setMap l m).frames = s.frames := by cases l <;> rfl

end setMap

section raiseFault
variable (c : Cause) (s : State)

@[simp] theorem raiseFault_params : (raiseFault c s).params = s.params := rfl
@[simp] theorem raiseFault_oam : (raiseFault c s).oam = s.oam := rfl
@[simp] theorem raiseFault_bg0 : (raiseFault c s).bg0 = s.bg0 := rfl
@[simp] theorem raiseFault_bg1 : (raiseFault c s).bg1 = s.bg1 := rfl
@[simp] theorem raiseFault_map0 : (raiseFault c s).map0 = s.map0 := rfl
@[simp] theorem raiseFault_map1 : (raiseFault c s).map1 = s.map1 := rfl
@[simp] theorem raiseFault_sheet : (raiseFault c s).sheet = s.sheet := rfl
@[simp] theorem raiseFault_glob : (raiseFault c s).glob = s.glob := rfl
@[simp] theorem raiseFault_status : (raiseFault c s).status = { fault := true, cause := if s.status.fault then s.status.cause else c } := rfl
@[simp] theorem raiseFault_fb : (raiseFault c s).fb = s.fb := rfl
@[simp] theorem raiseFault_port : (raiseFault c s).port = s.port := rfl
@[simp] theorem raiseFault_scan : (raiseFault c s).scan = s.scan := rfl
@[simp] theorem raiseFault_input : (raiseFault c s).input = s.input := rfl
@[simp] theorem raiseFault_responses : (raiseFault c s).responses = s.responses := rfl
@[simp] theorem raiseFault_frames : (raiseFault c s).frames = s.frames := rfl

end raiseFault

section resetBlock
variable (s : State) (r : List HostInput)

@[simp] theorem State.resetBlock_params : (s.resetBlock r).params = s.params := rfl
@[simp] theorem State.resetBlock_oam : (s.resetBlock r).oam = State.reset.oam := rfl
@[simp] theorem State.resetBlock_bg0 : (s.resetBlock r).bg0 = State.reset.bg0 := rfl
@[simp] theorem State.resetBlock_bg1 : (s.resetBlock r).bg1 = State.reset.bg1 := rfl
@[simp] theorem State.resetBlock_map0 : (s.resetBlock r).map0 = State.reset.map0 := rfl
@[simp] theorem State.resetBlock_map1 : (s.resetBlock r).map1 = State.reset.map1 := rfl
@[simp] theorem State.resetBlock_sheet : (s.resetBlock r).sheet = State.reset.sheet := rfl
@[simp] theorem State.resetBlock_glob : (s.resetBlock r).glob = State.reset.glob := rfl
@[simp] theorem State.resetBlock_status : (s.resetBlock r).status = State.reset.status := rfl
@[simp] theorem State.resetBlock_fb : (s.resetBlock r).fb = State.reset.fb := rfl
@[simp] theorem State.resetBlock_port : (s.resetBlock r).port = State.reset.port := rfl
@[simp] theorem State.resetBlock_scan : (s.resetBlock r).scan = State.reset.scan := rfl
@[simp] theorem State.resetBlock_input : (s.resetBlock r).input = r := rfl
@[simp] theorem State.resetBlock_responses : (s.resetBlock r).responses = s.responses := rfl
@[simp] theorem State.resetBlock_frames : (s.resetBlock r).frames = s.frames := rfl

end resetBlock

/-- The planes after reset are canonical (R62). -/
theorem State.reset_planes_wf : State.reset.map0.wf ∧ State.reset.map1.wf ∧ State.reset.sheet.wf ∧ State.reset.fb.wf := by decide

end Sys2Proof.Machine
end

