-- ==== Sys2Proof/Laws/Frame.lean ====
section
/-! SUPPORT. Laws/Frame.lean: what a RENDER leaves in the frame buffer, and what it leaves alone (R210 to R216). -/

namespace Sys2Proof.Machine

/-- A pixel depends on the pipeline's inputs only (R75, R213). -/
theorem framePixel_congr {s t : State} (h : s.pipelineInputs = t.pipelineInputs) (x y : Nat) : framePixel s x y = framePixel t x y := by
  cases s; cases t
  simp only [State.pipelineInputs, Prod.mk.injEq] at h
  obtain ⟨rfl, rfl, ⟨rfl, rfl⟩, ⟨rfl, rfl⟩, rfl, rfl⟩ := h
  rfl

/-- The pixels of a row (R210). -/
def framePixelRow (s : State) (y : Nat) : List Colour := (List.range Config.screenW).map (fun x => framePixel s x y)

theorem framePixelRow_congr {s t : State} (h : s.pipelineInputs = t.pipelineInputs) (y : Nat) : framePixelRow s y = framePixelRow t y :=
  List.map_congr_left (fun x _ => framePixel_congr h x y)

theorem length_framePixelRow (s : State) (y : Nat) : (framePixelRow s y).length = Config.screenW := by
  simp [framePixelRow]

/-- One scanline: the row's pixels go to the frame buffer; besides it only the transient state changes (R210, R212). -/
theorem scanline_eq (s : State) (y : Nat) :
    ∃ k : Scan, scanline s y = (s.setFb (s.fb.writeElems (y * Config.screenW) (framePixelRow s y))).setScan (some k) :=
  ⟨scanPixel (beginRow s y) { scanY := y, scanX := 0, caches := bin s y, work := pixelStart s.glob } (Config.screenW - 1), rfl⟩

/-- After the first `n` scanlines: their pixels stand in the frame buffer, the rest of it and every other component but the
transient state is as before. -/
theorem scanlines_eq (s : State) (n : Nat) :
    ∃ (m : Memory) (k : Option Scan), (List.range n).foldl scanline s = (s.setFb m).setScan k ∧
      (∀ x y, x < Config.screenW → y < n → m.readElem (y * Config.screenW + x) = framePixel s x y) ∧
      (∀ b, 2 * (n * Config.screenW) ≤ b → m.readByte b = s.fb.readByte b) ∧
      (s.fb.wf → m.wf) ∧
      (∀ N, n * Config.screenW ≤ N → s.fb.within (2 * N) → m.within (2 * N)) := by
  induction n with
  | zero => exact ⟨s.fb, s.scan, rfl, fun _ _ _ hy => absurd hy (Nat.not_lt_zero _), fun _ _ => rfl, id, fun _ _ h => h⟩
  | succ n ih =>
    obtain ⟨m, k, he, hpix, hout, hwf, hin⟩ := ih
    obtain ⟨k', hs⟩ := scanline_eq ((s.setFb m).setScan k) n
    have hrow : framePixelRow ((s.setFb m).setScan k) n = framePixelRow s n := framePixelRow_congr rfl n
    refine ⟨m.writeElems (n * Config.screenW) (framePixelRow s n), some k', ?_, ?_, ?_, ?_, ?_⟩
    · rw [List.range_succ, List.foldl_append, he, List.foldl_cons, List.foldl_nil, hs, hrow]
      rfl
    · intro x y hx hy
      rw [Memory.readElem_writeElems, length_framePixelRow]
      rcases Nat.lt_or_ge y n with h | h
      · have : (y + 1) * Config.screenW ≤ n * Config.screenW := Nat.mul_le_mul_right _ h
        have e := Nat.add_one_mul y Config.screenW
        rw [if_neg (by omega), hpix x y hx h]
      · obtain rfl : y = n := by omega
        rw [if_pos (by omega), Nat.add_sub_cancel_left, framePixelRow, List.getD_eq_getElem?_getD, List.getElem?_map,
          List.getElem?_range hx]
        rfl
    · intro b hb
      have e := Nat.add_one_mul n Config.screenW
      rw [Memory.readByte_writeElems_outside _ _ _ _ (by rw [length_framePixelRow]; omega), hout b (by omega)]
    · exact fun h => Memory.wf_writeElems (hwf h) _ _
    · intro N hN h
      have e := Nat.add_one_mul n Config.screenW
      exact Memory.within_writeElems (hin N (by omega) h) (by rw [length_framePixelRow]; omega)

/-- RENDER_FRAME: every element of the frame buffer is its pixel, one FrameOut carries it, no transient state is left, and
nothing else changes (R210, R212, R213, R214). -/
theorem renderFrame_eq (s : State) :
    ∃ m : Memory,
      renderFrame s = ((s.setFb m).emitFrame { pixels := m, byteSwap := s.params.fbByteSwap }).setScan none ∧
      (∀ x y, x < Config.screenW → y < Config.screenH → m.readElem (y * Config.screenW + x) = framePixel s x y) ∧
      (∀ b, 2 * Config.fbSize ≤ b → m.readByte b = s.fb.readByte b) ∧
      (s.fb.ok fbBytes → m.ok fbBytes) := by
  obtain ⟨m, k, he, hpix, hout, hwf, hin⟩ := scanlines_eq s Config.screenH
  refine ⟨m, ?_, hpix, hout, fun h => ⟨hwf h.1, hin Config.fbSize (Nat.le_refl _) h.2⟩⟩
  rw [renderFrame, he]
  rfl

end Sys2Proof.Machine
end

