-- ==== Sys2Proof/Laws/Words.lean ====
section
/-! SUPPORT. Laws/Words.lean: packing and unpacking are inverse: the sprite record (R93, R94), the control words (R41, R42), and
what a register reads after it is written (R50). -/

namespace Sys2Proof.Machine

theorem codeOfLogic_logicOfCode (c : BitVec 2) : codeOfLogic (logicOfCode c) = c := by
  revert c; decide

theorem logicOfCode_codeOfLogic (l : WinLogic) : logicOfCode (codeOfLogic l) = l := by
  cases l <;> rfl

/-- A word is its upper part followed by its lower part. -/
theorem slice_append_slice {a b : Nat} (v : BitVec (a + b)) : slice v b a ++ slice v 0 b = v := by
  ext i hi
  simp only [BitVec.getElem_append, BitVec.getElem_extractLsb']
  split
  · simp [BitVec.getLsbD_eq_getElem hi]
  · have hb : b ≤ i := by omega
    simp [Nat.add_sub_cancel' hb, BitVec.getLsbD_eq_getElem hi]

theorem slice_high_append {a b : Nat} (u : BitVec a) (v : BitVec b) : slice (u ++ v) b a = u := by
  ext i hi
  simp [BitVec.getElem_extractLsb', BitVec.getLsbD_append, BitVec.getLsbD_eq_getElem hi]

theorem slice_low_append {a b : Nat} (u : BitVec a) (v : BitVec b) : slice (u ++ v) 0 b = v := by
  ext i hi
  simp [BitVec.getElem_extractLsb', BitVec.getLsbD_append, hi]

theorem winWord_getLsbD (w : WinSel) (i : Nat) :
    (winWord w).getLsbD i =
      if i < 1 then w.drawIn else if i < 2 then w.drawOut else (codeOfLogic w.logic).getLsbD (i - 2) := by
  simp only [winWord, BitVec.getLsbD_append]
  rcases i with _ | _ | i <;> simp

/-- The four window bits of a word, packed again, are those bits (R92, R42). -/
theorem winWord_winOfWord (v : Half) (k : Nat) : winWord (winOfWord v k) = slice v k 4 := by
  refine BitVec.eq_of_getLsbD_eq (fun i hi => ?_)
  simp only [winWord_getLsbD, winOfWord, codeOfLogic_logicOfCode, BitVec.getLsbD_extractLsb']
  have : i = 0 ∨ i = 1 ∨ i = 2 ∨ i = 3 := by omega
  rcases this with rfl | rfl | rfl | rfl <;> simp [Nat.add_assoc]

theorem winOfWord_slice (v : Half) (k : Nat) (w : WinSel) (h : slice v k 4 = winWord w) : winOfWord v k = w := by
  have hb (i : Nat) (hi : i < 4) : v.getLsbD (k + i) = (winWord w).getLsbD i := by
    rw [← h, BitVec.getLsbD_extractLsb', decide_eq_true hi, Bool.true_and]
  have hc : slice v (k + 2) 2 = codeOfLogic w.logic := by
    refine BitVec.eq_of_getLsbD_eq (fun i hi => ?_)
    have := hb (i + 2) (by omega)
    rw [winWord_getLsbD, if_neg (by omega), if_neg (by omega)] at this
    rw [BitVec.getLsbD_extractLsb', decide_eq_true hi, Bool.true_and, show k + 2 + i = k + (i + 2) by omega, this]
    simp
  have h0 := hb 0 (by omega)
  have h1 := hb 1 (by omega)
  rw [winWord_getLsbD] at h0 h1
  simp only [winOfWord, hc, logicOfCode_codeOfLogic]
  simp at h0 h1
  rw [h0, h1]

/-- The bits of the sprite flags word (R92). -/
theorem flagsWord_getLsbD (s : Sprite) (i : Nat) :
    (flagsWord s).getLsbD i =
      if i = 0 then s.enabled else if i = 1 then s.flipX else if i = 2 then s.flipY else if i = 3 then s.gate.drawMain
      else if i = 4 then s.gate.drawSub else if i = 5 then s.gate.cmath else if i = 6 then s.priority
      else if i = 7 then s.doubleSize else if i < 12 then (winWord s.gate.mwin).getLsbD (i - 8)
      else (winWord s.gate.swin).getLsbD (i - 12) := by
  simp only [flagsWord, BitVec.getLsbD_append]
  rcases i with _ | _ | _ | _ | _ | _ | _ | _ | i <;> simp
  by_cases h : i < 4
  · simp [h]
  · rw [if_neg h, if_neg (by omega)]

/-- The flags word of an unpacked record is the record's flags word (R94). -/
theorem flagsWord_unpackSprite (s0 s1 s2 : Word) : flagsWord (unpackSprite s0 s1 s2) = highHalf s1 := by
  refine BitVec.eq_of_getLsbD_eq (fun i hi => ?_)
  simp only [flagsWord_getLsbD, unpackSprite, gateOfFlags, winWord_winOfWord, BitVec.getLsbD_extractLsb']
  have : i = 0 ∨ i = 1 ∨ i = 2 ∨ i = 3 ∨ i = 4 ∨ i = 5 ∨ i = 6 ∨ i = 7 ∨ i = 8 ∨ i = 9 ∨ i = 10 ∨ i = 11 ∨ i = 12 ∨
      i = 13 ∨ i = 14 ∨ i = 15 := by omega
  rcases this with rfl | rfl | rfl | rfl | rfl | rfl | rfl | rfl | rfl | rfl | rfl | rfl | rfl | rfl | rfl | rfl <;> simp

/-- GET_SPRITE's S0 of an unpacked record is its S0 (R94). -/
theorem packS0_unpackSprite (s0 s1 s2 : Word) : packS0 (unpackSprite s0 s1 s2) = s0 := slice_append_slice (a := 16) (b := 16) s0

/-- GET_SPRITE's S1 of an unpacked record is its S1 (R94). -/
theorem packS1_unpackSprite (s0 s1 s2 : Word) : packS1 (unpackSprite s0 s1 s2) = s1 := by
  show flagsWord (unpackSprite s0 s1 s2) ++ slice s1 8 8 ++ slice s1 0 8 = s1
  rw [flagsWord_unpackSprite, highHalf]
  refine BitVec.eq_of_getLsbD_eq (fun i hi => ?_)
  simp only [BitVec.getLsbD_append, BitVec.getLsbD_extractLsb']
  by_cases h : i < 8
  · simp [h]
  · by_cases h2 : i - 8 < 8
    · rw [if_neg h, if_pos h2, decide_eq_true h2, Bool.true_and, show 8 + (i - 8) = i by omega]
    · rw [if_neg h, if_neg h2, decide_eq_true (by omega), Bool.true_and, show 16 + (i - 8 - 8) = i by omega]

/-- GET_SPRITE's S2 of an unpacked record is its S2 (R94). -/
theorem packS2_unpackSprite (s0 s1 s2 : Word) : packS2 (unpackSprite s0 s1 s2) = s2 := slice_append_slice (a := 16) (b := 16) s2

theorem slice_slice_high {a b c : Nat} (u : BitVec a) (v : BitVec b) (w : BitVec c) : slice (u ++ v ++ w) (b + c) a = u := by
  refine BitVec.eq_of_getLsbD_eq (fun i hi => ?_)
  simp only [BitVec.getLsbD_append, BitVec.getLsbD_extractLsb']
  rw [if_neg (by omega), if_neg (by omega), decide_eq_true hi, Bool.true_and, show b + c + i - c - b = i by omega]

theorem slice_slice_mid {a b c : Nat} (u : BitVec a) (v : BitVec b) (w : BitVec c) : slice (u ++ v ++ w) c b = v := by
  refine BitVec.eq_of_getLsbD_eq (fun i hi => ?_)
  simp only [BitVec.getLsbD_append, BitVec.getLsbD_extractLsb']
  rw [if_neg (by omega), if_pos (by omega), decide_eq_true hi, Bool.true_and, show c + i - c = i by omega]

/-- Unpacking the flags word gives the gating fields back. -/
theorem gateOfFlags_flagsWord (s : Sprite) : gateOfFlags (flagsWord s) = s.gate := by
  have hm : winOfWord (flagsWord s) 8 = s.gate.mwin := by
    refine winOfWord_slice _ _ _ (BitVec.eq_of_getLsbD_eq (fun i hi => ?_))
    rw [BitVec.getLsbD_extractLsb', decide_eq_true hi, Bool.true_and, flagsWord_getLsbD]
    have : i = 0 ∨ i = 1 ∨ i = 2 ∨ i = 3 := by omega
    rcases this with rfl | rfl | rfl | rfl <;> simp
  have hs : winOfWord (flagsWord s) 12 = s.gate.swin := by
    refine winOfWord_slice _ _ _ (BitVec.eq_of_getLsbD_eq (fun i hi => ?_))
    rw [BitVec.getLsbD_extractLsb', decide_eq_true hi, Bool.true_and, flagsWord_getLsbD]
    have : i = 0 ∨ i = 1 ∨ i = 2 ∨ i = 3 := by omega
    rcases this with rfl | rfl | rfl | rfl <;> simp
  simp only [gateOfFlags, hm, hs, flagsWord_getLsbD]
  simp

/-- Unpacking a packed descriptor gives it back: "packing a descriptor is the exact inverse" (R94). -/
theorem unpackSprite_pack (s : Sprite) : unpackSprite (packS0 s) (packS1 s) (packS2 s) = s := by
  have h1 : highHalf (packS1 s) = flagsWord s := slice_slice_high (a := 16) (b := 8) (c := 8) _ _ _
  have h2 : slice (packS1 s) 8 8 = s.height := slice_slice_mid (a := 16) (b := 8) (c := 8) _ _ _
  have h3 : slice (packS1 s) 0 8 = s.width := slice_low_append (a := 24) (b := 8) _ _
  have h4 : highHalf (packS0 s) = s.y := slice_high_append (a := 16) (b := 16) _ _
  have h5 : lowHalf (packS0 s) = s.x := slice_low_append (a := 16) (b := 16) _ _
  have h6 : highHalf (packS2 s) = s.graphicsY := slice_high_append (a := 16) (b := 16) _ _
  have h7 : lowHalf (packS2 s) = s.graphicsX := slice_low_append (a := 16) (b := 16) _ _
  simp only [unpackSprite, h1, h2, h3, h4, h5, h6, h7, gateOfFlags_flagsWord, flagsWord_getLsbD]
  simp

/-! Registers. -/

/-- An 8-bit register field reads back as the low 8 bits of the value written (R50). -/
theorem byteReg_readback (v : Half) : (0#8 ++ slice v 0 8 : Half) = v &&& 0x00FF#16 := by
  refine BitVec.eq_of_getLsbD_eq (fun i hi => ?_)
  simp only [BitVec.getLsbD_append, BitVec.getLsbD_and, BitVec.getLsbD_extractLsb']
  have : i = 0 ∨ i = 1 ∨ i = 2 ∨ i = 3 ∨ i = 4 ∨ i = 5 ∨ i = 6 ∨ i = 7 ∨ i = 8 ∨ i = 9 ∨ i = 10 ∨ i = 11 ∨ i = 12 ∨
      i = 13 ∨ i = 14 ∨ i = 15 := by omega
  rcases this with rfl | rfl | rfl | rfl | rfl | rfl | rfl | rfl | rfl | rfl | rfl | rfl | rfl | rfl | rfl | rfl <;> simp

/-- CMATH_CTRL reads back as bits [8:0] of the value written (R41, R50). -/
theorem cmathCtrl_setCmathCtrl (g : Glob) (v : Half) : cmathCtrl (setCmathCtrl g v) = v &&& 0x01FF#16 := by
  refine BitVec.eq_of_getLsbD_eq (fun i hi => ?_)
  simp only [cmathCtrl, setCmathCtrl, BitVec.getLsbD_append, BitVec.getLsbD_and]
  have : i = 0 ∨ i = 1 ∨ i = 2 ∨ i = 3 ∨ i = 4 ∨ i = 5 ∨ i = 6 ∨ i = 7 ∨ i = 8 ∨ i = 9 ∨ i = 10 ∨ i = 11 ∨ i = 12 ∨
      i = 13 ∨ i = 14 ∨ i = 15 := by omega
  rcases this with rfl | rfl | rfl | rfl | rfl | rfl | rfl | rfl | rfl | rfl | rfl | rfl | rfl | rfl | rfl | rfl <;> simp

/-- BGn_CTRL reads back as bits [11:0] of the value written (R42, R50). -/
theorem bgCtrl_setBgCtrl (b : Layer) (v : Half) : bgCtrl (setBgCtrl b v) = v &&& 0x0FFF#16 := by
  refine BitVec.eq_of_getLsbD_eq (fun i hi => ?_)
  simp only [bgCtrl, setBgCtrl, winWord_winOfWord, BitVec.getLsbD_append, BitVec.getLsbD_and, BitVec.getLsbD_extractLsb']
  have : i = 0 ∨ i = 1 ∨ i = 2 ∨ i = 3 ∨ i = 4 ∨ i = 5 ∨ i = 6 ∨ i = 7 ∨ i = 8 ∨ i = 9 ∨ i = 10 ∨ i = 11 ∨ i = 12 ∨
      i = 13 ∨ i = 14 ∨ i = 15 := by omega
  rcases this with rfl | rfl | rfl | rfl | rfl | rfl | rfl | rfl | rfl | rfl | rfl | rfl | rfl | rfl | rfl | rfl <;> simp

end Sys2Proof.Machine
end

