-- ==== Sys2Proof/Laws/Commands.lean ====
section
/-! SUPPORT. Laws/Commands.lean: what every command has in common (it completes; it keeps the parameters, the port and the
host's input) and the frames of the register and render operations. -/

namespace Sys2Proof.Machine

theorem State.writeReg_keeps (s : State) (r : Reg) (v : Half) :
    (s.writeReg r v).params = s.params ∧ (s.writeReg r v).oam = s.oam ∧ (s.writeReg r v).map0 = s.map0 ∧ (s.writeReg r v).map1 = s.map1 ∧
      (s.writeReg r v).sheet = s.sheet ∧ (s.writeReg r v).status = s.status ∧ (s.writeReg r v).fb = s.fb ∧
      (s.writeReg r v).port = s.port ∧ (s.writeReg r v).scan = s.scan ∧ (s.writeReg r v).input = s.input ∧
      (s.writeReg r v).responses = s.responses ∧ (s.writeReg r v).frames = s.frames := by
  cases r <;> simp [State.writeReg]

/-- A register write changes only the register it names (R50). -/
theorem State.readReg_writeReg_ne (s : State) {r q : Reg} (h : q ≠ r) (v : Half) : (s.writeReg r v).readReg q = s.readReg q := by
  cases r <;> cases q <;> first | exact absurd rfl h | rfl

/-- Every command completes: no command stops the block (R250, R252). -/
theorem exec_next (i : Instr) (s : State) : ∃ t, exec i s = .next t := by
  cases i with
  | nop => exact ⟨_, rfl⟩
  | render => exact ⟨_, rfl⟩
  | setSprite idx s0 s1 s2 => exact ⟨_, rfl⟩
  | getSprite idx => exact ⟨_, rfl⟩
  | blitBg l x y w h px =>
    simp only [exec, execBlitBg]
    repeat' split
    all_goals exact ⟨_, rfl⟩
  | blitSheet x y w h px =>
    simp only [exec, execBlitSheet]
    repeat' split
    all_goals exact ⟨_, rfl⟩
  | writeReg reg value =>
    simp only [exec, execWriteReg]
    split
    all_goals exact ⟨_, rfl⟩
  | readReg reg =>
    simp only [exec, execReadReg]
    split
    all_goals exact ⟨_, rfl⟩
  | readFb k =>
    simp only [exec, execReadFb]
    split
    all_goals exact ⟨_, rfl⟩
  | resetOam => exact ⟨_, rfl⟩

/-- RENDER changes nothing but the frame buffer, the frames sent and the transient state (R215). -/
theorem renderFrame_keeps (s : State) :
    (renderFrame s).pipelineInputs = s.pipelineInputs ∧ (renderFrame s).status = s.status ∧ (renderFrame s).port = s.port ∧
      (renderFrame s).input = s.input ∧ (renderFrame s).responses = s.responses ∧ (renderFrame s).scan = none := by
  obtain ⟨m, he, -, -, -⟩ := renderFrame_eq s
  rw [he]
  exact ⟨rfl, rfl, rfl, rfl, rfl, rfl⟩

/-- Every command keeps the parameters, the port and the host's further actions (R44, R230). -/
theorem exec_keeps {i : Instr} {s t : State} (h : exec i s = .next t) : t.params = s.params ∧ t.port = s.port ∧ t.input = s.input := by
  cases i with
  | nop => cases h; exact ⟨rfl, rfl, rfl⟩
  | render =>
    injection h with h
    obtain ⟨m, he, -, -, -⟩ := renderFrame_eq s
    rw [← h, he]
    exact ⟨rfl, rfl, rfl⟩
  | setSprite idx s0 s1 s2 => cases h; exact ⟨rfl, rfl, rfl⟩
  | getSprite idx => cases h; exact ⟨rfl, rfl, rfl⟩
  | blitBg l x y w h' px =>
    simp only [exec, execBlitBg] at h
    repeat' split at h
    all_goals (injection h with h; rw [← h]; simp)
  | blitSheet x y w h' px =>
    simp only [exec, execBlitSheet] at h
    repeat' split at h
    all_goals (injection h with h; rw [← h]; simp)
  | writeReg reg value =>
    simp only [exec, execWriteReg] at h
    split at h
    · injection h with h
      obtain ⟨h1, -, -, -, -, -, -, h2, -, h3, -⟩ := State.writeReg_keeps s _ value
      rw [← h]
      exact ⟨h1, h2, h3⟩
    · cases h; exact ⟨rfl, rfl, rfl⟩
  | readReg reg =>
    simp only [exec, execReadReg] at h
    split at h <;> (cases h; exact ⟨rfl, rfl, rfl⟩)
  | readFb k =>
    simp only [exec, execReadFb] at h
    split at h <;> (cases h; exact ⟨rfl, rfl, rfl⟩)
  | resetOam => cases h; exact ⟨rfl, rfl, rfl⟩

end Sys2Proof.Machine
end

