-- ==== Sys2Proof/Laws/Decode.lean ====
section
/-! SUPPORT. Laws/Decode.lean: the decoder on each opcode, the fields of an encoded command word, and how the decoder behaves
when more words follow. -/

namespace Sys2Proof

open Machine

theorem opcodeOf_commandWord (op : Byte) (low : BitVec 24) : opcodeOf (commandWord op low) = op :=
  slice_high_append (a := 8) (b := 24) op low

theorem lowHalf_commandWord (op a : Byte) (h : Half) : lowHalf (commandWord op (a ++ h)) = h := by
  refine BitVec.eq_of_getLsbD_eq (fun i hi => ?_)
  simp only [lowHalf, commandWord, BitVec.getLsbD_append, BitVec.getLsbD_extractLsb']
  rw [if_pos (by omega), if_pos (by omega), decide_eq_true hi, Bool.true_and, Nat.zero_add]

theorem regField_commandWord (op a : Byte) (h : Half) : regField (commandWord op (a ++ h)) = a := by
  refine BitVec.eq_of_getLsbD_eq (fun i hi => ?_)
  simp only [regField, commandWord, BitVec.getLsbD_append, BitVec.getLsbD_extractLsb']
  rw [if_pos (by omega), if_neg (by omega), decide_eq_true hi, Bool.true_and, Nat.add_sub_cancel_left]

theorem layerField_commandWord (op : Byte) (l : LayerId) : layerField (commandWord op (0#23 ++ layerBit l)) = l := by
  simp only [layerField, commandWord, BitVec.getLsbD_append]
  cases l <;> simp [layerBit]

theorem lowHalf_append (u v : Half) : lowHalf (u ++ v) = v := slice_low_append (a := 16) (b := 16) u v

theorem highHalf_append (u v : Half) : highHalf (u ++ v) = u := slice_high_append (a := 16) (b := 16) u v

theorem lowHalf_pixelWords (px : List Colour) : (px.map (fun p => (0#16 ++ p : Word))).map lowHalf = px := by
  rw [List.map_map]
  exact (List.map_congr_left (fun p _ => lowHalf_append 0 p)).trans (List.map_id px)

/-- The blit payload decodes to the rectangle and the pixels it was written from (R100). -/
theorem decodeBlit_encodeBlit (mk : Half → Half → Half → Half → List Colour → Instr) {x y w h : Half} {px : List Colour}
    (hl : px.length = w.toNat * h.toNat) (rest : List Word) :
    decodeBlit mk (encodeBlit x y w h px ++ rest) = .command (mk x y w h px) rest := by
  have hlen : (px.map (fun p => (0#16 ++ p : Word))).length = w.toNat * h.toNat := by rw [List.length_map, hl]
  have hnot : ¬ ((px.map (fun p => (0#16 ++ p : Word)) ++ rest).length < w.toNat * h.toNat) := by
    rw [List.length_append, hlen]; omega
  simp only [decodeBlit, encodeBlit, List.cons_append, lowHalf_append, highHalf_append]
  rw [if_neg hnot, List.take_left' hlen, List.drop_left' hlen, lowHalf_pixelWords]

/-- More words after a decoded payload stay after it. -/
theorem decodeBlit_append {mk : Half → Half → Half → Half → List Colour → Instr} {ws rest : List Word} {i : Instr}
    (h : decodeBlit mk ws = .command i rest) (more : List Word) : decodeBlit mk (ws ++ more) = .command i (rest ++ more) := by
  match ws, h with
  | p0 :: p1 :: ws, h =>
    simp only [decodeBlit, List.cons_append] at h ⊢
    split at h
    · cases h
    · rename_i hn
      have hn' : (lowHalf p1).toNat * (highHalf p1).toNat ≤ ws.length := Nat.le_of_not_lt hn
      injection h with h1 h2
      rw [if_neg (by rw [List.length_append]; omega), List.take_append_of_le_length hn', List.drop_append_of_le_length hn', h1, h2]

theorem decodeRecord_append {mk : Word → Word → Word → Instr} {ws rest : List Word} {i : Instr}
    (h : decodeRecord mk ws = .command i rest) (more : List Word) : decodeRecord mk (ws ++ more) = .command i (rest ++ more) := by
  match ws, h with
  | s0 :: s1 :: s2 :: ws, h =>
    simp only [decodeRecord] at h
    injection h with h1 h2
    simp [decodeRecord, h1, h2]

theorem decodeBlit_ne_illegal (mk : Half → Half → Half → Half → List Colour → Instr) (ws : List Word) (op : Byte) (rest : List Word) :
    decodeBlit mk ws ≠ .illegal op rest := by
  match ws with
  | [] => exact Decoded.noConfusion
  | [_] => exact Decoded.noConfusion
  | p0 :: p1 :: ws =>
    simp only [decodeBlit]
    split <;> exact Decoded.noConfusion

theorem decodeRecord_ne_illegal (mk : Word → Word → Word → Instr) (ws : List Word) (op : Byte) (rest : List Word) :
    decodeRecord mk ws ≠ .illegal op rest := by
  match ws with
  | [] => exact Decoded.noConfusion
  | [_] => exact Decoded.noConfusion
  | [_, _] => exact Decoded.noConfusion
  | _ :: _ :: _ :: _ => exact Decoded.noConfusion

/-- A complete command decodes the same whatever follows it (R101). -/
theorem decode_command_append {ws rest : List Word} {i : Instr} (h : decode ws = .command i rest) (more : List Word) :
    decode (ws ++ more) = .command i (rest ++ more) := by
  match ws, h with
  | c :: ws, h =>
    simp only [decode, List.cons_append] at h ⊢
    split at h <;> first
      | exact decodeBlit_append h more
      | exact decodeRecord_append h more
      | (injection h with h1 h2; rw [h1, h2])
      | cases h

/-- A reserved opcode is refused whatever follows it (R106). -/
theorem decode_illegal_append {ws rest : List Word} {op : Byte} (h : decode ws = .illegal op rest) (more : List Word) :
    decode (ws ++ more) = .illegal op (rest ++ more) := by
  match ws, h with
  | c :: ws, h =>
    simp only [decode, List.cons_append] at h ⊢
    split at h <;> first
      | exact absurd h (decodeBlit_ne_illegal _ _ _ _)
      | exact absurd h (decodeRecord_ne_illegal _ _ _ _)
      | (injection h with h1 h2; rw [h1, h2])
      | cases h

/-- A reserved opcode decodes to a refusal and takes no payload (R106). -/
theorem decode_reserved {c : Word} (h : 0x0A ≤ (opcodeOf c).toNat) (ws : List Word) : decode (c :: ws) = .illegal (opcodeOf c) ws := by
  simp only [decode]
  split <;> first | omega | rfl

end Sys2Proof
end

