-- ==== Sys2Proof/Laws/PerInstr.lean ====
section
/-! SUPPORT. Laws/PerInstr.lean: statements about each command as syntax. Family EncodeLength: a well-formed command is one
command word and the payload that R101 gives its opcode and P1. -/

namespace Sys2Proof.Laws.EncodeLength

open Sys2Proof

/-- The words after the command word are as many as R101 says, and R101's rule reads that number from the words themselves. -/
def Statement (i : Instr) : Prop :=
  i.wf = true → ∃ c ws, encode i = c :: ws ∧ payloadWords c ws = some ws.length

theorem plain {op : Byte} {low : BitVec 24} (h2 : op.toNat ≠ 2) (h4 : op.toNat ≠ 4) (h5 : op.toNat ≠ 5) :
    payloadWords (commandWord op low) [] = some 0 := by
  unfold payloadWords
  rw [opcodeOf_commandWord]
  split
  · exact absurd ‹_› h2
  · exact absurd ‹_› h4
  · exact absurd ‹_› h5
  · rfl

theorem blit {op : Byte} {low : BitVec 24} {x y w h : Half} {px : List Colour} (ho : op.toNat = 4 ∨ op.toNat = 5)
    (hl : px.length = w.toNat * h.toNat) :
    payloadWords (commandWord op low) (encodeBlit x y w h px) = some (encodeBlit x y w h px).length := by
  unfold payloadWords
  rw [opcodeOf_commandWord]
  rcases ho with ho | ho <;>
    simp [ho, encodeBlit, lowHalf_append, highHalf_append, hl, Nat.add_comm 2]

theorem nop : Statement .nop := fun _ => ⟨_, _, rfl, plain (by decide) (by decide) (by decide)⟩
theorem render : Statement .render := fun _ => ⟨_, _, rfl, plain (by decide) (by decide) (by decide)⟩
theorem setSprite (idx : Half) (s0 s1 s2 : Word) : Statement (.setSprite idx s0 s1 s2) := fun _ =>
  ⟨_, _, rfl, by unfold payloadWords; rw [opcodeOf_commandWord]; rfl⟩
theorem getSprite (idx : Half) : Statement (.getSprite idx) := fun _ => ⟨_, _, rfl, plain (by decide) (by decide) (by decide)⟩
theorem blitBg (layer : LayerId) (x y w h : Half) (px : List Colour) : Statement (.blitBg layer x y w h px) := fun hw =>
  ⟨_, _, rfl, blit (.inl rfl) (by simpa [Instr.wf] using hw)⟩
theorem blitSheet (x y w h : Half) (px : List Colour) : Statement (.blitSheet x y w h px) := fun hw =>
  ⟨_, _, rfl, blit (.inr rfl) (by simpa [Instr.wf] using hw)⟩
theorem writeReg (reg : Byte) (value : Half) : Statement (.writeReg reg value) := fun _ =>
  ⟨_, _, rfl, plain (by decide) (by decide) (by decide)⟩
theorem readReg (reg : Byte) : Statement (.readReg reg) := fun _ => ⟨_, _, rfl, plain (by decide) (by decide) (by decide)⟩
theorem readFb (k : Half) : Statement (.readFb k) := fun _ => ⟨_, _, rfl, plain (by decide) (by decide) (by decide)⟩
theorem resetOam : Statement .resetOam := fun _ => ⟨_, _, rfl, plain (by decide) (by decide) (by decide)⟩

end Sys2Proof.Laws.EncodeLength
end

