-- ==== Sys2Proof/Laws/Step.lean ====
section
/-! SUPPORT. Laws/Step.lean: the port and the fetch, and the one inversion of a step: what each step can do. -/

namespace Sys2Proof.Machine

@[simp] theorem Port.words_ofWords (ws : List Word) : (Port.ofWords ws).words = ws := by
  cases ws <;> rfl

@[simp] theorem leadingWords_words (ws : List Word) (evs : List HostInput) :
    leadingWords (ws.map .word ++ evs) = ws ++ leadingWords evs := by
  induction ws with
  | nil => rfl
  | cons w ws ih => simp [leadingWords, ih]

@[simp] theorem afterWords_words (ws : List Word) (evs : List HostInput) :
    afterWords (ws.map .word ++ evs) = afterWords evs := by
  induction ws with
  | nil => rfl
  | cons w ws ih => simp [afterWords, ih]

/-- The host's input is its leading words and then the rest. -/
theorem words_append_after (evs : List HostInput) : (leadingWords evs).map .word ++ afterWords evs = evs := by
  induction evs with
  | nil => rfl
  | cons e evs ih =>
    cases e with
    | word w => simp [leadingWords, afterWords, ih]
    | reset => rfl
    | resetInCommand => rfl
    | directWrite => rfl

/-- A complete command that nothing cuts short is fetched (R230). -/
theorem fetchFrom_command {ws left : List Word} {evs : List HostInput} {i : Instr} (h : decode ws = .command i left)
    (hc : left ≠ [] ∨ ∀ e ∈ evs.head?, e.cuts = false) : fetchFrom ws evs = .command i (left.map .word ++ evs) := by
  simp only [fetchFrom, h]
  match left, evs, hc with
  | [], [], _ => rfl
  | [], .word _ :: _, _ => rfl
  | [], .reset :: _, _ => rfl
  | [], .resetInCommand :: _, hc => simp [HostInput.cuts] at hc
  | [], .directWrite :: _, hc => simp [HostInput.cuts] at hc
  | _ :: _, _, _ => rfl

/-- A reserved opcode that nothing cuts short is fetched as such (R253). -/
theorem fetchFrom_illegal {ws left : List Word} {evs : List HostInput} {op : Byte} (h : decode ws = .illegal op left)
    (hc : left ≠ [] ∨ ∀ e ∈ evs.head?, e.cuts = false) : fetchFrom ws evs = .illegal (left.map .word ++ evs) := by
  simp only [fetchFrom, h]
  match left, evs, hc with
  | [], [], _ => rfl
  | [], .word _ :: _, _ => rfl
  | [], .reset :: _, _ => rfl
  | [], .resetInCommand :: _, hc => simp [HostInput.cuts] at hc
  | [], .directWrite :: _, hc => simp [HostInput.cuts] at hc
  | _ :: _, _, _ => rfl

/-- The port waits only with the words of an incomplete command (R49). -/
theorem fetchFrom_wait {ws : List Word} {evs rest : List HostInput} {p : Port} (h : fetchFrom ws evs = .wait p rest) :
    decode ws = .incomplete ∧ p = Port.ofWords ws := by
  simp only [fetchFrom] at h
  split at h
  · simp only [cutShort] at h; split at h <;> cases h
  · simp only [cutShort] at h; split at h <;> cases h
  · rename_i hd
    split at h <;> cases h
    exact ⟨hd, rfl⟩

/-- What a step can do: run a command, record an illegal opcode, wait, or reset (R230, R253, R49, R270). -/
theorem step_cases {s t : State} (h : step s = .next t) :
    (∃ i rest, fetch s = .command i rest ∧ exec i (s.accept rest) = .next t) ∨
    (∃ rest, fetch s = .illegal rest ∧ t = raiseFault .illegalOpcode (s.accept rest)) ∨
    (∃ p rest, fetch s = .wait p rest ∧ decode p.words = .incomplete ∧ t = s.setPort p rest) ∨
    (∃ rest, fetch s = .reset rest ∧ t = s.resetBlock rest) := by
  simp only [step] at h
  split at h
  · exact .inl ⟨_, _, ‹_›, h⟩
  · exact .inr (.inl ⟨_, ‹_›, by injection h with h; exact h.symm⟩)
  · rename_i p rest hf
    obtain ⟨hd, hp⟩ := fetchFrom_wait hf
    refine .inr (.inr (.inl ⟨p, rest, hf, ?_, by injection h with h; exact h.symm⟩))
    rw [hp, Port.words_ofWords, hd]
  · exact .inr (.inr (.inr ⟨_, ‹_›, by injection h with h; exact h.symm⟩))
  · cases h

end Sys2Proof.Machine
end

