-- ==== Sys2Proof/Tests/Slice0.lean ====
section
/-! SUPPORT. Tests/Slice0.lean: the model's own tests and the witnesses of the obligations' hypotheses. Expected results come from
the spec: the encoding tables of 30_encoding.md and the vectors T1 to T116 of 95_test_vectors.md, named in each docstring. -/

namespace Sys2Proof.Tests

open Sys2Proof Sys2Proof.Machine Sys2Proof.Claims

/-- The parameters with the two OPEN sheet sizes set to 256, as the vectors assume. -/
def params : Params := { Config.params with sheetWLog2 := 8, sheetHLog2 := 8 }

/-- The state after reset of a chip with those parameters. -/
def base : State := { State.reset with params := params }

/-- The host sends these words next, and then nothing. -/
def send (ws : List Word) (s : State) : State := { s with input := ws.map .word }

/-- A view of the next state; none after a stop. -/
def after {α : Type} (o : Host.Outcome State Fault Refusal) (f : State → α) : Option α :=
  match o with
  | .next t => some (f t)
  | .fault _ => none
  | .refused _ => none

/-- The window fields that let a screen through everywhere. -/
def open_ : WinSel := { drawIn := true, drawOut := true, logic := .xnor }

/-- `EN|MAIN|MIN|MOUT`, 8 wide and 8 high at the origin. -/
def plain : Sprite :=
  { Sprite.default with
    width := 8, height := 8, enabled := true,
    gate := { Gate.zero with drawMain := true, mwin := open_ } }

/-! Well-formedness. -/

/-- A blit with a pixel too few is no command, with as many as `w * h` it is one (R100). -/
theorem test_wf_blitBg : (Instr.blitBg .bg0 0 0 2 1 [0x1111]).wf = false ∧ (Instr.blitBg .bg0 0 0 2 1 [0x1111, 0x2222]).wf = true := by
  decide

theorem test_wf_blitSheet : (Instr.blitSheet 0 0 1 1 []).wf = false ∧ (Instr.blitSheet 0 0 1 1 [0xF800]).wf = true := by decide

/-! Decoding: words written out bit by bit from 30_encoding.md. -/

/-- Opcode 00000000, then 24 ignored bits (R96). -/
theorem test_decode_nop : decode [0b00000000000000000000000000000001] = .command .nop [] := by decide

/-- T18. -/
theorem test_decode_render : decode [0b00000001101010111100110111101111] = .command .render [] := by decide

/-- T14: opcode 00000010, index 5, and the record of the sprite (-3, 10), 16 by 8, graphics (32, 64). -/
theorem test_decode_setSprite :
    decode [0b00000010000000000000000000000101, 0x000AFFFD, 0x03090810, 0x00400020] =
      .command (.setSprite 5 0x000AFFFD 0x03090810 0x00400020) [] := by decide

/-- Opcode 00000011, index 7 (R97). -/
theorem test_decode_getSprite : decode [0b00000011000000000000000000000111] = .command (.getSprite 7) [] := by decide

/-- T19a: opcode 00000100, layer bit 1, P0 = y:x = 3:2, P1 = h:w = 1:2. -/
theorem test_decode_blitBg :
    decode [0b00000100000000000000000000000001, 0b00000000000000110000000000000010, 0b00000000000000010000000000000010, 0x0000001F, 0x000007E0] =
      .command (.blitBg .bg1 2 3 2 1 [0x001F, 0x07E0]) [] := by decide

/-- Opcode 00000101; the upper half of a pixel word is ignored (R99, R100). -/
theorem test_decode_blitSheet :
    decode [0b00000101000000000000000000000001, 0x00030002, 0x00010001, 0xFFFFF800] = .command (.blitSheet 2 3 1 1 [0xF800]) [] := by
  decide

/-- T19b: opcode 00000110, register 0x11, value 0xFFFF; register 0x12, value 600. -/
theorem test_decode_writeReg :
    decode [0b00000110000100011111111111111111] = .command (.writeReg 0x11 0xFFFF) [] ∧
      decode [0b00000110000100100000001001011000] = .command (.writeReg 0x12 600) [] := by decide

/-- Opcode 00000111, register 0x20, 16 ignored bits (R98). -/
theorem test_decode_readReg : decode [0b00000111001000000000000000000001] = .command (.readReg 0x20) [] := by decide

/-- Opcode 00001000, index 57600 = 0xE100 (T103). -/
theorem test_decode_readFb : decode [0b00001000000000001110000100000000] = .command (.readFb 57600) [] := by decide

/-- Opcode 00001001 (R104). -/
theorem test_decode_resetOam : decode [0b00001001000000000000000000000000] = .command .resetOam [] := by decide

/-- T19: reserved opcodes take no payload. -/
theorem test_decode_reserved :
    decode [0x0A000000, 0x00000000] = .illegal 0x0A [0x00000000] ∧ decode [0xFF123456] = .illegal 0xFF [] := by decide

/-- T14, T19a, T19b, T19c, T19d, encoded. -/
theorem test_encode :
    encode (.setSprite 5 0x000AFFFD 0x03090810 0x00400020) = [0x02000005, 0x000AFFFD, 0x03090810, 0x00400020] ∧
      encode (.blitBg .bg1 2 3 2 1 [0x001F, 0x07E0]) = [0x04000001, 0x00030002, 0x00010002, 0x0000001F, 0x000007E0] ∧
      encode (.writeReg 0x11 0xFFFF) = [0x0611FFFF] ∧ encode (.writeReg 0x06 0x0141) = [0x06060141] ∧
      encode (.writeReg 0x14 0x0033) = [0x06140033] := by decide

/-- The opcode table's numbering: the first word in bits [31:0], zeros above. -/
theorem test_tableWord :
    decodeTableWord 32 0x06070080 = some (.writeReg 0x07 128) ∧ decodeTableWord 32 0x02000005 = some (.setSprite 5 0 0 0) ∧
      decodeTableWord 32 0x0A000000 = none := by decide

/-- T14 to T17: the flags word and the record. -/
theorem test_record :
    flagsWord { plain with gate := { plain.gate with drawSub := true, swin := open_ } } = 0x3319 ∧
      packS1 (unpackSprite 0x000AFFFD 0x03090810 0x00400020) = 0x03090810 ∧
      (unpackSprite 0x000AFFFD 0x03090810 0x00400020).x.toInt = -3 ∧ (unpackSprite 0x000AFFFD 0x03090810 0x00400020).y.toInt = 10 ∧
      gateOfFlags 0x8C00 = { Gate.zero with mwin := ⟨false, false, .or⟩, swin := ⟨false, false, .and⟩ } := by decide

/-! Commands: T86 to T111, one step each. -/

/-- T86. -/
theorem test_nop : after (step (send [0x00FFFFFF] base)) (fun t => (t.responses, t.status, t.input)) = some ([], .clear, []) := by decide

/-- T89. -/
theorem test_setSprite :
    after (step (send [0x02000105, 0x00010002, 0x00000003, 0x00000004] base)) (fun t => t.sprite 5) =
      some { Sprite.default with x := 2, y := 1, width := 3, graphicsX := 4 } := by decide +kernel

/-- T87, and T88 with the entry in place. -/
theorem test_getSprite :
    after (step (send [0x03000007] base)) State.responses = some [0, 0, 0] ∧
      after (step (send [0x03000005] (base.setSprite 5 (unpackSprite 0x000AFFFD 0x03090810 0x00400020)))) State.responses =
        some [0x000AFFFD, 0x03090810, 0x00400020] := by decide +kernel

/-- T90, T91. -/
theorem test_blitBg :
    after (step (send [0x04000001, 0x00030002, 0x00010002, 0x0000001F, 0x000007E0] base))
        (fun t => (t.map1.planeRead 512 3 2, t.map1.planeRead 512 3 3, t.map0)) = some (0x001F, 0x07E0, []) ∧
      after (step (send [0x04000000, 0x01FF01FF, 0x00010001, 0x00001234] base)) (fun t => (t.map0.planeRead 512 511 511, t.status)) =
        some (0x1234, .clear) := by decide +kernel

/-- T92, T93. -/
theorem test_blitBg_edges :
    after (step (send [0x04000000, 0x000001FF, 0x00010002, 0x00001111, 0x00002222] base)) (fun t => (t.map0, t.status, t.input)) =
        some ([], ⟨true, .blitOutOfBounds⟩, []) ∧
      after (step (send [0x04000000, 0x02580258, 0x00050000, 0x01000000] base)) (fun t => (t.map0, t.status, t.input)) =
        some ([], .clear, [.word 0x01000000]) := by decide +kernel

/-- T94, T95. -/
theorem test_blitSheet :
    after (step (send [0x05000000, 0x00000000, 0x00010001, 0x0000F800] base)) (fun t => t.sheet.planeRead 256 0 0) = some 0xF800 ∧
      after (step (send [0x05000000, 0x000000FF, 0x00010002, 0x0000000A, 0x0000000B] base)) (fun t => (t.sheet, t.status)) =
        some ([], ⟨true, .blitOutOfBounds⟩) := by decide +kernel

/-- T96 to T99, T11. -/
theorem test_writeReg :
    after (exec (.writeReg 0x10 0xFFFF) base) (regValue · 0x10) = some 0x0FFF ∧
      after (exec (.writeReg 0x06 0xFFFF) base) (regValue · 0x06) = some 0x01FF ∧
      after (exec (.writeReg 0x16 0xFFFF) base) (fun t => t.bg1.scrollY.toInt) = some (-1) ∧
      after (step (send [0x06070080] base)) (fun t => t.glob.fadeLevel) = some 128 ∧
      after (step (send [0x06021234] base)) (fun t => (t.glob.win1Left, t.status)) = some (0x34, .clear) := by decide

/-- T100, T106. -/
theorem test_writeReg_others :
    after (exec (.writeReg 0x20 0xFFFF) base) State.status = some .clear ∧
      after (step (send [0x06300001] base)) (regValue · 0x20) = some 0x0021 := by decide

/-- T101, T107, T98's read. -/
theorem test_readReg :
    after (step (send [0x07210000] base)) State.responses = some [0x00000889] ∧
      after (step (send [0x07080000] base)) (fun t => (t.responses, regValue t 0x20)) = some ([0], 0x0021) ∧
      after (exec (.readReg 0x16) { base with bg1 := { Layer.zero with scrollY := 0xFFFF } }) State.responses = some [0x0000FFFF] := by decide

/-- T102 with the element in place, T103. -/
theorem test_readFb :
    after (step (send [0x0800E0FF] { base with fb := Memory.writeElems [] 57599 [0x07E0] })) State.responses = some [0x000007E0] ∧
      after (step (send [0x0800E100] base)) (fun t => (t.responses, regValue t 0x20)) = some ([0], 0x0041) := by decide +kernel

/-- T104. -/
theorem test_resetOam :
    after (step (send [0x09000000] (base.setSprite 5 plain))) (fun t => (packS0 (t.sprite 5), packS1 (t.sprite 5), packS2 (t.sprite 5))) =
      some (0, 0, 0) := by decide +kernel

/-- T105, T110: the first cause stays. -/
theorem test_first_cause_stays :
    after (step (send [0xFF000000] base)) (regValue · 0x20) = some 0x0011 ∧
      after (step (send [0xFF000000] { base with status := ⟨true, .badRegister⟩ })) (regValue · 0x20) = some 0x0021 := by decide

/-- T115: a reset drops the partial command, and the next word is a command of its own. -/
theorem test_reset_drops_partial_command :
    after (step { base with port := .receiving 0x04000000 [0x00000000], input := [.reset, .word 0x06070080] }) (fun t => (t.port, t.input)) =
      some (.idle, [.word 0x06070080]) := by decide

/-- T114: a reset during a RENDER: no FrameOut of it, `fb` all 0. -/
theorem test_reset_during_render :
    after (step { base with fb := [(0, 1)], input := [.word 0x01000000, .resetInCommand] }) (fun t => (t.frames, t.fb, t.input)) =
      some ([], [], []) := by decide

/-- The command an opcode-table word names is the next to run after reset. -/
theorem test_withFetchWord : after (step (State.reset.withFetchWord 32 0x06070080)) (fun t => t.glob.fadeLevel) = some 128 := by decide

/-! The pipeline. -/

/-- T21. -/
theorem test_window_membership :
    let g : Glob := { Glob.zero with win1Left := 10, win1Right := 20, win2Left := 15, win2Right := 30 }
    [10, 20, 21, 31].map (fun x => (inA g x, inB g x)) = [(true, false), (true, true), (false, true), (false, false)] ∧
      inA Glob.zero 0 = true ∧ inA Glob.zero 1 = false ∧ inA { Glob.zero with win1Left := 20, win1Right := 10 } 15 = false ∧
      inB { Glob.zero with win2Left := 239, win2Right := 239 } 239 = true := by decide

/-- The rows a sprite is binned on. -/
def rows (f : BinFilter) (p : Sprite) : List Nat := (List.range 240).filter (fun y => eligible f y p)

/-- T23 to T34: the vertical test. -/
theorem test_bin_rows :
    rows .drawAndWindow plain = List.range 8 ∧ rows .drawAndWindow { plain with y := 0xFFFC } = List.range 4 ∧
      rows .drawAndWindow { plain with y := 0xFFF8 } = [] ∧ rows .drawAndWindow { plain with y := 236 } = [236, 237, 238, 239] ∧
      rows .drawAndWindow { plain with height := 0 } = [] ∧
      rows .drawAndWindow { plain with y := 0xFED4, height := 255, doubleSize := true } = List.range 210 ∧
      rows .drawAndWindow { plain with enabled := false } = [] ∧ rows .drawAndWindow { plain with x := 300 } = List.range 8 := by
  decide +kernel

/-- T31 to T33: the visibility test. -/
theorem test_bin_filter :
    visibleAny .drawAndWindow { plain with gate := { Gate.zero with drawMain := true } } = false ∧
      visibleAny .drawAndWindow { plain with gate := { Gate.zero with drawSub := true, swin := ⟨true, false, .xnor⟩ } } = true ∧
      visibleAny .drawAndWindow { plain with gate := { Gate.zero with mwin := open_ } } = false ∧
      visibleAny .windowOnly { plain with gate := { Gate.zero with mwin := open_ } } = true := by decide

/-- T35, T36, T38: the capacity of each class, and the order. -/
theorem test_bin_capacity :
    let low := plain
    let high := { plain with priority := true }
    binScan .drawAndWindow 0 (List.replicate 20 low) 0 ⟨[], []⟩ = ⟨(List.range 16).map (BitVec.ofNat 8), []⟩ ∧
      binScan .drawAndWindow 0 (List.replicate 20 high ++ List.replicate 3 low) 0 ⟨[], []⟩ =
        ⟨[20, 21, 22], (List.range 16).map (BitVec.ofNat 8)⟩ ∧
      binScan .drawAndWindow 0 ((List.range 40).map (fun i => if i % 2 = 0 then low else high)) 0 ⟨[], []⟩ =
        ⟨(List.range 16).map (fun k => BitVec.ofNat 8 (2 * k)), (List.range 16).map (fun k => BitVec.ofNat 8 (2 * k + 1))⟩ := by
  decide +kernel

/-- The sheet of T41 to T46. -/
def sheet : Memory :=
  ((((Memory.writeElems [] 0 [1, 2, 3, 4, 5, 6, 7, 8]).writeElems 254 [0xAAAA, 0xBBBB]).writeElems 256 [0x10]).writeElems 512 [0x20]).writeElems 768 [0x30]
    |>.writeElems 1024 [0x40]

/-- The main colours that sprite 0 alone gives the pixels. -/
def mains (p : Sprite) (px : List (Nat × Nat)) : List Colour :=
  let s := { base with sheet := sheet }.setSprite 0 p
  px.map (fun (x, y) => (composite s ⟨[0], []⟩ x y).mainColor)

/-- T41, T42, T44: horizontal flip, double size, a negative x. -/
theorem test_sprite_columns :
    mains { plain with height := 1, flipX := true } ((List.range 8).map (·, 0)) = [8, 7, 6, 5, 4, 3, 2, 1] ∧
      mains { plain with height := 1, flipX := true, doubleSize := true } ([(0, 0), (1, 0), (2, 0), (14, 0), (15, 0), (0, 1)]) = [8, 8, 7, 1, 1, 8] ∧
      mains { plain with height := 1, x := 0xFFFB } ((List.range 4).map (·, 0)) = [6, 7, 8, 0] := by decide +kernel

/-- T45, T46: vertical flip, the sheet's wrap. -/
theorem test_sprite_rows_and_wrap :
    mains { plain with width := 1, height := 4, graphicsY := 1, flipY := true } ((List.range 4).map (0, ·)) = [0x40, 0x30, 0x20, 0x10] ∧
      mains { plain with width := 4, height := 1, graphicsX := 254 } ((List.range 4).map (·, 0)) = [0xAAAA, 0xBBBB, 1, 2] := by
  decide +kernel

/-- A layer open on both screens. -/
def openLayer (main sub cmath : Bool) : Layer :=
  { Layer.zero with enabled := true, gate := { drawMain := main, drawSub := sub, cmath := cmath, mwin := open_, swin := open_ } }

/-- T47, T48, T53: the later layer's flag, a transparent sub sample under both SUB_NEEDS_OPAQUE, a disabled layer. -/
theorem test_background :
    composite { base with bg0 := openLayer true false true, bg1 := openLayer true false false, map0 := [(0, 5)], map1 := [(0, 7)] } ⟨[], []⟩ 0 0 =
        ⟨7, 0, false⟩ ∧
      (composite { base with bg0 := openLayer false true false, glob := { Glob.zero with defaultSub := 0x1111 } } ⟨[], []⟩ 3 3).subColor = 0x1111 ∧
      (composite { base with
          params := { params with subNeedsOpaque := false }, bg0 := openLayer false true false, glob := { Glob.zero with defaultSub := 0x1111 } }
        ⟨[], []⟩ 3 3).subColor = 0 ∧
      composite { base with bg0 := { openLayer true true true with enabled := false }, map0 := [(0, 5)] } ⟨[], []⟩ 0 0 = ⟨0, 0, false⟩ := by
  decide +kernel

/-- T50 to T52: the scroll's wrap. -/
theorem test_scroll :
    scrolled params 0 0xFFFF = 511 ∧ scrolled params 10 600 = 98 ∧ scrolled params 5 0x8000 = 5 ∧ scrolled params 1 511 = 0 := by decide

/-- The settings of section 2.5: CMATH_CTRL and the fade level. -/
def math (ctrl : Half) (level : Byte) : Glob := { setCmathCtrl Glob.zero ctrl with fadeLevel := level }

/-- T56 to T68. -/
theorem test_blend :
    ([(0x00, true), (0x41, false), (0x01, true), (0x41, true), (0x81, true), (0xC1, true), (0x05, true), (0x09, true), (0x0D, true),
        (0x55, true), (0x91, true), (0xC0, true)] : List (Half × Bool)).map (fun (c, f) => blend (math c 0) 0xA503 0xA3CA f) =
      [0xA503, 0xA503, 0xA503, 0xFFED, 0x0140, 0x5C23, 0x5281, 0x4206, 0x2103, 0xA466, 0x5320, 0xA503] := by decide +kernel

/-- T66, T68 to T73, T77, T78. -/
theorem test_blend_fade :
    blend (math 0x61 0) 0x0000 0xA3CA true = 0x4794 ∧ blend (math 0x02 128) 0xA503 0xA3CA false = 0x5281 ∧
      blend (math 0x02 255) 0xFFFF 0 false = 0xF7DE ∧ blend (math 0x02 0) 0xFFFF 0 false = 0 ∧ blend (math 0x02 64) 0xFFFF 0 false = 0x39E7 ∧
      blend (math 0x43 128) 0xA503 0xA3CA true = 0x7BE6 ∧ blend (math 0x81 0) 0xA503 0xA503 true = 0 ∧
      blend (math 0x41 0) 0xA000 0xA000 true = 0xF800 ∧ blend (math 0x81 0) 0x2800 0xA000 true = 0 := by decide +kernel

/-- T1's colour at a pixel, with and without fade; T80, T81: the frame image's bytes. -/
theorem test_frame :
    framePixel { base with glob := { Glob.zero with defaultMain := 0x07E0 } } 239 239 = 0x07E0 ∧
      framePixel { base with glob := { math 0x02 128 with defaultMain := 0x07E0 } } 0 0 = 0x03E0 ∧
      pixelBytes false 0x07E0 = [0xE0, 0x07] ∧ pixelBytes true 0x07E0 = [0x07, 0xE0] := by decide +kernel

/-! Witnesses: concrete states and operands that meet the hypotheses of each obligation, clause by clause, at the boundaries. -/

theorem witness_DecodeEncodeRoundTrip :
    (Instr.blitBg .bg1 2 3 2 1 [0x001F, 0x07E0]).wf = true ∧ (Instr.blitSheet 0xFFFF 0 0 0xFFFF []).wf = true ∧
      (Instr.setSprite 0xFFFF 1 2 3).wf = true ∧ (Instr.writeReg 0xFF 0xFFFF).wf = true := by decide

theorem witness_IgnoredBitsNeverMatter :
    opcodeOf 0x01ABCDEF = opcodeOf 0x01000000 ∧ opcodeOf 0x01ABCDEF = 0x01 ∧
      opcodeOf 0x03FF0007 = opcodeOf 0x03000007 ∧ opcodeOf 0x03FF0007 = 0x03 ∧ slice (0x03FF0007 : Word) 0 16 = slice (0x03000007 : Word) 0 16 ∧
      opcodeOf 0x04FFFFFF = opcodeOf 0x04000001 ∧ opcodeOf 0x04FFFFFF = 0x04 ∧ (0x04FFFFFF : Word).getLsbD 0 = (0x04000001 : Word).getLsbD 0 ∧
      opcodeOf 0x06070080 = 0x06 ∧ slice (0x06070080 : Word) 0 24 = slice (0x06070080 : Word) 0 24 ∧
      opcodeOf 0x0720FFFF = opcodeOf 0x07200000 ∧ opcodeOf 0x0720FFFF = 0x07 ∧ slice (0x0720FFFF : Word) 16 8 = slice (0x07200000 : Word) 16 8 := by
  decide

theorem witness_CommandConsumesItsPayload :
    decode [0x04000001, 0x00030002, 0x00010002, 0x0000001F, 0x000007E0, 0x01000000] = .command (.blitBg .bg1 2 3 2 1 [0x001F, 0x07E0]) [0x01000000] := by
  decide

/-- With a word behind the command, with a reset of the idle block behind it, and with nothing. -/
theorem witness_StepRunsDecodedCommand :
    (decode (portWords (send [0x06070080, 0x01000000] base)) = .command (.writeReg 7 128) [0x01000000] ∧
        NotCut (send [0x06070080, 0x01000000] base) [0x01000000]) ∧
      (decode (portWords { base with input := [.word 0x06070080, .reset] }) = .command (.writeReg 7 128) [] ∧
        NotCut { base with input := [.word 0x06070080, .reset] } []) ∧
      decode (portWords (send [0x06070080] base)) = .command (.writeReg 7 128) [] ∧ NotCut (send [0x06070080] base) [] := by
  refine ⟨⟨by decide, .inl (by decide)⟩, ⟨by decide, .inr ?_⟩, by decide, .inr ?_⟩ <;> simp [send, base, State.reset, afterWords, HostInput.cuts]

theorem witness_IncompleteCommandWaits :
    (send [0x00000000] { base with port := .receiving 0x04000000 [] }).input = [0x00000000].map .word ∧
      decode ((Port.receiving 0x04000000 []).words ++ [0x00000000]) = .incomplete ∧ decode (Port.idle.words ++ [0x02000005, 1, 2]) = .incomplete := by
  decide

theorem witness_PayloadMayArriveInPieces :
    decode (base.port.words ++ [0x02000005, 0x000AFFFD]) = .incomplete ∧ decode (base.port.words ++ []) = .incomplete := by decide

theorem witness_IdleBlockHoldsState : base.port = .idle ∧ base.input = [] := by decide

/-- The ends of the reserved range. -/
theorem witness_ReservedOpcodeFaults :
    base.port = .idle ∧ (send [0x0A000000] base).input = [.word 0x0A000000] ∧ 0x0A ≤ (opcodeOf 0x0A000000).toNat ∧
      0x0A ≤ (opcodeOf 0xFFFFFFFF).toNat ∧ (∀ e ∈ ([] : List HostInput).head?, e.cuts = false) ∧
      ∀ e ∈ [HostInput.word 0].head?, e.cuts = false := by
  refine ⟨by decide, by decide, by decide, by decide, by simp, by simp [HostInput.cuts]⟩

/-- Behind a RENDER, behind a reserved opcode, at a partial command and at the idle port. -/
theorem witness_OnlySecondWriterIsRefused :
    (decode (portWords { base with input := [.word 0x01000000, .directWrite] }) = .command .render [] ∧
        afterWords [.word 0x01000000, .directWrite] = [.directWrite]) ∧
      decode (portWords { base with input := [.word 0xFF000000, .directWrite] }) = .illegal 0xFF [] ∧
      decode (portWords { base with input := [.word 0x02000000, .directWrite] }) = .incomplete ∧
      decode (portWords { base with input := [.directWrite] }) = .incomplete := by decide

theorem witness_ResetAbandonsCommand :
    (decode ((Port.receiving 0x04000000 []).words ++ [0x00000000]) = .incomplete ∧
        ({ base with port := .receiving 0x04000000 [], input := [.word 0, .reset] } : State).input = [0].map .word ++ .reset :: []) ∧
      ({ base with input := [.word 0x02000000, .resetInCommand] } : State).input = [0x02000000].map .word ++ .resetInCommand :: [] ∧
      decode (base.port.words ++ [0x02000000]) = .incomplete ∧
      decode (base.port.words ++ [0x01000000]) = .command .render [] ∧
      ({ base with input := [.word 0x01000000, .resetInCommand] } : State).input = [0x01000000].map .word ++ .resetInCommand :: [] ∧
      decode (base.port.words ++ [0x0A000000]) = .illegal 0x0A [] ∧
      ({ base with input := [.word 0x0A000000, .resetInCommand] } : State).input = [0x0A000000].map .word ++ .resetInCommand :: [] := by
  decide

/-- One command for each cause, and a reserved opcode. -/
theorem witness_FaultingCommandOnlyRecordsTheFault :
    (decode (portWords (send [0x0800E100] base)) = .command (.readFb 57600) [] ∧ NotCut (send [0x0800E100] base) [] ∧
        causeOf (send [0x0800E100] base) (.readFb 57600) = some .fbIndexRange) ∧
      causeOf base (.readReg 0x08) = some .badRegister ∧ causeOf base (.writeReg 0x30 1) = some .badRegister ∧
      causeOf base (.blitBg .bg0 511 0 2 1 [1, 2]) = some .blitOutOfBounds ∧ causeOf base (.blitSheet 0 255 1 2 [1, 2]) = some .blitOutOfBounds ∧
      decode (portWords (send [0xFF000000] base)) = .illegal 0xFF [] ∧ NotCut (send [0xFF000000] base) [] := by
  refine ⟨⟨by decide, .inr ?_, by decide⟩, by decide, by decide, by decide, by decide, by decide, .inr ?_⟩ <;>
    simp [send, base, State.reset, afterWords]

theorem witness_StatusChangesOnlyByListedCauses :
    causeOf base (.readFb 57599) = none ∧ causeOf base (.readFb 57600) = some .fbIndexRange ∧
      causeOf base (.blitBg .bg0 511 511 1 1 [1]) = none ∧ causeOf base (.blitBg .bg0 600 600 0 5 []) = none := by decide

/-- A second fault on top of a first; a reset. -/
theorem witness_FaultStaysUntilReset :
    (∃ t, step (send [0xFF000000] { base with status := ⟨true, .badRegister⟩ }) = .next t) ∧
      (send [0xFF000000] { base with status := ⟨true, .badRegister⟩ }).status.fault = true ∧
      HostInput.reset ∉ (send [0xFF000000] base).input ∧ HostInput.resetInCommand ∉ (send [0xFF000000] base).input ∧
      decode (base.port.words ++ []) = .incomplete ∧ ({ base with input := [.reset] } : State).input = [].map .word ++ .reset :: [] :=
  ⟨⟨_, rfl⟩, by decide⟩

theorem witness_SafeRunIsSafeThroughout :
    (∃ t, SafeRun 1 (send [0x06070080] base) t) ∧ 0 ≤ 1 ∧ HostInput.reset ∉ (send [0x06070080] base).input ∧
      HostInput.resetInCommand ∉ (send [0x06070080] base).input :=
  ⟨⟨_, rfl, rfl⟩, by decide⟩

theorem witness_ResetState : (0x20 : Byte) ≠ 0x21 ∧ (0x06 : Byte) ≠ 0x21 := by decide

theorem witness_NopChangesNothing : slice (0x00FFFFFF : Word) 24 8 = 0x00 := by decide

theorem witness_SetSpriteReplacesEntry : slice (0x02FF0105 : Word) 24 8 = 0x02 ∧ (6 : Byte) ≠ slice (0x0105 : Half) 0 8 := by decide

theorem witness_GetSpriteReturnsRecord : slice (0x0105 : Half) 0 8 = slice (0x0005 : Half) 0 8 ∧ slice (0x03FF0007 : Word) 24 8 = 0x03 := by decide

/-- Empty, one past each edge, and exactly fitting. -/
theorem witness_BlitBgWritesRegion :
    slice (0x04FFFFFF : Word) 24 8 = 0x04 ∧ ([1, 2] : List Word).length = (2 : Half).toNat * (1 : Half).toNat ∧
      ([] : List Colour).length = (0 : Half).toNat * (5 : Half).toNat ∧
      (base.params.mapSize < (511 : Half).toNat + (2 : Half).toNat ∧ ([1, 2] : List Colour).length = (2 : Half).toNat * (1 : Half).toNat) ∧
      ((511 : Half).toNat + (1 : Half).toNat ≤ base.params.mapSize ∧ ([1] : List Colour).length = (1 : Half).toNat * (1 : Half).toNat) := by
  decide

theorem witness_BlitSheetWritesRegion :
    slice (0x05000000 : Word) 24 8 = 0x05 ∧ ([] : List Colour).length = (5 : Half).toNat * (0 : Half).toNat ∧
      (base.params.sheetW < (255 : Half).toNat + (2 : Half).toNat ∧ base.params.sheetH < (255 : Half).toNat + (2 : Half).toNat) ∧
      ((255 : Half).toNat + (1 : Half).toNat ≤ base.params.sheetW ∧ (0 : Half).toNat + (256 : Half).toNat ≤ base.params.sheetH) := by
  decide

/-- The registers at the ends of the map's ranges, the two read-only ones, and the reserved numbers beside them. -/
theorem witness_WriteRegStoresFields :
    slice (0x06070080 : Word) 24 8 = 0x06 ∧
      (∀ n ∈ ([0x00, 0x07, 0x10, 0x12, 0x14, 0x16] : List Byte), n ∈ registerNumbers ∧ n ≠ 0x20 ∧ n ≠ 0x21) ∧
      ∀ n ∈ ([0x08, 0x0F, 0x13, 0x17, 0x1F, 0x22, 0xFF] : List Byte), n ∉ registerNumbers := by decide

theorem witness_ReadRegResponds :
    slice (0x0720FFFF : Word) 24 8 = 0x07 ∧ ((0x00 : Byte) ∈ registerNumbers ∧ (0x00 : Byte) ≠ 0x20 ∧ (0x00 : Byte) ≠ 0x21) ∧
      ({ base with bg0 := { Layer.zero with scrollX := 0xFFFF } } : State).bg0.scrollX.toInt = -1 ∧ (0x21 : Byte) ∈ registerNumbers ∧
      (0x30 : Byte) ∉ registerNumbers := by decide

theorem witness_RegisterMapReads : (0x13 : Byte) ∉ registerNumbers := by decide

theorem witness_StatusAndParamBits : ∃ t, step base = .next t := ⟨_, rfl⟩

/-- A step that runs a command, and a reset. -/
theorem witness_ParamIsHardwired :
    base.params.mapSize = 512 ∧ (∃ t, step (send [0x06210000] base) = .next t) ∧ ∃ t, step { base with input := [.reset] } = .next t :=
  ⟨by decide, ⟨_, rfl⟩, _, rfl⟩

theorem witness_ReadFbResponds : slice (0x0800E0FF : Word) 24 8 = 0x08 ∧ (57599 : Half).toNat < 57600 ∧ 57600 ≤ (57600 : Half).toNat := by decide

theorem witness_ResetOamDefaultsEveryEntry : slice (0x09123456 : Word) 24 8 = 0x09 := by decide

theorem witness_WindowMembershipInclusive :
    ({ Glob.zero with win1Left := 20, win1Right := 19 } : Glob).win1Right.toNat < (20 : Byte).toNat ∧
      ({ Glob.zero with win2Left := 255, win2Right := 0 } : Glob).win2Right.toNat < (255 : Byte).toNat := by decide

theorem witness_FilteredSpriteWouldDrawNothing :
    visibleAny .drawAndWindow (base.sprite 0) = false ∧ visibleAny .windowOnly (base.sprite 255) = false ∧
      visibleAny .drawAndWindow ((base.setSprite 1 { plain with gate := { plain.gate with drawMain := false } }).sprite 1) = false := by
  decide +kernel

/-- The first and the last row of a sprite of each class. -/
theorem witness_CachedSpriteCoversRow :
    (0 : Byte) ∈ (bin (base.setSprite 0 plain) 0).lo ∧ (0 : Byte) ∈ (bin (base.setSprite 0 plain) 7).lo ∧
      (255 : Byte) ∈ (bin (base.setSprite 255 { plain with priority := true }) 7).hi := by decide +kernel

theorem witness_EffectiveExtents : ({ plain with doubleSize := true } : Sprite).doubleSize = true ∧ plain.doubleSize = false := by decide

/-- A disabled layer; an enabled one that writes both, and one that writes neither. -/
theorem witness_BackgroundStepWrites :
    let s : State := { base with bg0 := openLayer true true true, map0 := [(0, 5)] }
    (base.layer .bg0).enabled = false ∧ (s.layer .bg0).enabled = true ∧ bgSample s .bg0 0 0 ≠ 0 ∧ (s.layer .bg0).gate.drawMain = true ∧
      windowAt s.glob (s.layer .bg0).gate.mwin 0 = true ∧ (s.layer .bg0).gate.drawSub = true ∧
      windowAt s.glob (s.layer .bg0).gate.swin 0 = true ∧ bgSample s .bg0 1 0 = 0 ∧ s.params.subNeedsOpaque = true := by decide +kernel

/-- Both edges of the extent, inside and outside; an opaque and a transparent sample. -/
theorem witness_SpriteStepWrites :
    let s : State := { base with sheet := sheet }.setSprite 0 { plain with x := 2 }
    effW (s.sprite 0) = 8 ∧ (s.sprite 0).x.toInt = 2 ∧ spriteSample s (s.sprite 0) 0 0 ≠ 0 ∧ spriteSample s (s.sprite 0) 7 7 = 0 ∧
      coversCol (s.sprite 0) 1 = false ∧ coversCol (s.sprite 0) 2 = true ∧ coversCol (s.sprite 0) 9 = true ∧ coversCol (s.sprite 0) 10 = false ∧
      (s.sprite 0).gate.drawMain = true ∧ windowAt s.glob (s.sprite 0).gate.mwin 2 = true := by decide +kernel

theorem witness_SourceOffsetsInsideSprite :
    let p : Sprite := { plain with doubleSize := true, flipX := true, flipY := true }
    15 < effW p ∧ 15 < effH p ∧ p.flipX = true ∧ p.flipY = true ∧ 7 < effW plain ∧ plain.flipX = false ∧ plain.flipY = false := by decide

theorem witness_SheetSampleWraps : 255 < base.params.sheetW ∧ ¬ 256 < base.params.sheetW := by decide

/-- Sprite 3 writes the pixel, sprite 4 after it is transparent there. -/
theorem witness_LastHighSpriteWins :
    let s : State := ({ base with sheet := sheet }.setSprite 3 plain).setSprite 4 { plain with graphicsX := 100 }
    MainWriter s 0 0 3 ∧ ∀ j ∈ [(4 : Byte)], ¬ MainWriter s 0 0 j := by
  simp only [MainWriter]
  decide +kernel

theorem witness_BlendChannelByChannel :
    (((math 0 0).cmathEnable && true) = false ∧ (math 0 0).fadeEnable = false) ∧ ((math 0x41 0).cmathEnable && true) = true ∧
      (math 0x02 128).fadeEnable = true := by decide

theorem witness_SubColourNeedsColourMath :
    ((math 0xC1 0).cmathEnable && false) = false ∧ ((math 0x3C 0).cmathEnable && true) = false ∧ (math 0xC1 0).fadeEnable = (math 0x3C 0).fadeEnable ∧
      (math 0xC1 0).fadeLevel = (math 0x3C 0).fadeLevel ∧ (math 0xC1 0).fadeEnable = false := by decide

theorem witness_FadeNeverBrightens : 31 < 2 ^ 5 ∧ 63 < 2 ^ 6 ∧ 255 < 2 ^ 8 ∧ 0 < 31 ∧ 8 ≤ 8 := by decide

/-- Two states that differ in the frame buffer, STATUS and the port. -/
theorem witness_FrameDependsOnInputsOnly :
    base.pipelineInputs = ({ base with fb := [(0, 1)], status := ⟨true, .badRegister⟩, port := .receiving 0 [] } : State).pipelineInputs := rfl

theorem witness_RenderFillsFrame : (239 : Nat) < 240 ∧ 115200 ≤ 115200 := by decide

theorem witness_FrameImageBytes :
    (∃ t, exec .nop base = .next t) ∧ (FrameOut.mk [] false).byteSwap = false ∧ (FrameOut.mk [] true).byteSwap = true ∧ 57599 < 57600 :=
  ⟨⟨_, rfl⟩, by decide⟩

theorem witness_UniformFrame :
    let s : State := { base with glob := { Glob.zero with defaultMain := 0x07E0, cmathDefault := true } }
    s.bg0.enabled = false ∧ s.bg1.enabled = false ∧ (∀ i, (s.sprite i).enabled = false) ∧ s.glob.fadeEnable = false ∧
      (s.glob.cmathEnable = false ∨ s.glob.cmathDefault = false) := by decide +kernel

/-- A state with data in its planes, a recorded fault and a partial command, and a word for it. -/
def busy : State :=
  { base with
    map0 := [(3, 1), (8, 2)], fb := [(115199, 5)], frames := [⟨[(0, 7)], false⟩], status := ⟨true, .badRegister⟩
    port := .receiving 0x04000000 [0], input := [.word 0x00010001] }

theorem witness_StepKeepsInv : Inv busy ∧ ∃ t, step busy = .next t :=
  ⟨⟨by decide +kernel, by decide +kernel, by decide +kernel, by decide +kernel, by decide +kernel, by decide, by decide, by decide⟩, _, rfl⟩

end Sys2Proof.Tests
end

/-! The parameters at reset (R11). -/
section
namespace Sys2Proof.Proofs

open Machine

/-- The 4-bit logarithm of an OPEN sheet size does not wrap: every code plus one is at most 15. -/
theorem sheetLog2_toNat (code : Fin 15) : (BitVec.ofNat 4 (code.val + 1)).toNat = code.val + 1 := by
  rw [BitVec.toNat_ofNat]
  exact Nat.mod_eq_of_lt (Nat.succ_lt_succ code.isLt)

theorem config_sheetW : Config.params.sheetW = 2 ^ (Config.sheetWCode.val + 1) :=
  congrArg (2 ^ ·) (sheetLog2_toNat Config.sheetWCode)

theorem config_sheetH : Config.params.sheetH = 2 ^ (Config.sheetHCode.val + 1) :=
  congrArg (2 ^ ·) (sheetLog2_toNat Config.sheetHCode)

/-- Settles O55: the fixed parameters are read off `Config.params`; each OPEN size is 2 to its code plus one, whatever the
code is. -/
theorem resetParameters : Obligations.ResetParameters :=
  ⟨rfl, rfl, rfl, rfl, rfl, rfl,
    ⟨_, Nat.le_add_left 1 _, Config.sheetWCode.isLt, config_sheetW⟩,
    ⟨_, Nat.le_add_left 1 _, Config.sheetHCode.isLt, config_sheetH⟩⟩

end Sys2Proof.Proofs
end

/-! What a register number reads (R40), in the terms of the statements. -/
section
namespace Sys2Proof.Proofs

open Machine Claims

theorem regValue_of_regOfNumber {n : Byte} {r : Reg} (h : regOfNumber n = some r) (s : State) : regValue s n = s.readReg r := by
  simp [regValue, h]

theorem regValue_of_reserved {n : Byte} (h : regOfNumber n = none) (s : State) : regValue s n = 0 := by
  simp [regValue, h]

/-- 0x21 is the only number of PARAM. -/
theorem eq_of_regOfNumber_eq_param {n : Byte} (h : regOfNumber n = some .param) : n = 0x21 := by
  revert n
  decide

end Sys2Proof.Proofs
end

/-! Frames: which component an update of the State changes. -/
section
namespace Sys2Proof.Proofs

open Machine Claims

theorem onlyChanges_setGlob (s : State) (g : Glob) : OnlyChanges [.glob] s (s.setGlob g) := by
  refine ⟨rfl, fun p hp => ?_⟩
  cases p with
  | glob => simp at hp
  | _ => simp [Unchanged, State.sprite]

/-- The component that holds a layer. -/
def layerPart : LayerId → Part
  | .bg0 => .bg0
  | .bg1 => .bg1

theorem onlyChanges_setLayer (s : State) (l : LayerId) (b : Layer) : OnlyChanges [layerPart l] s (s.setLayer l b) := by
  refine ⟨State.setLayer_params s l b, fun p hp => ?_⟩
  cases p with
  | bg0 =>
    cases l with
    | bg0 => simp [layerPart] at hp
    | bg1 => rfl
  | bg1 =>
    cases l with
    | bg0 => rfl
    | bg1 => simp [layerPart] at hp
  | _ => simp [Unchanged, State.sprite]

theorem layer_setLayer (s : State) (l : LayerId) (b : Layer) : (s.setLayer l b).layer l = b := by
  cases l <;> rfl

end Sys2Proof.Proofs
end

/-! The bits of the two control words (R41, R42). A control word is a row of fields, each appended below the ones before it;
`getLsbD_append_of_bits` appends their bit lists, so a word's bits follow field by field. -/
section
namespace Sys2Proof.Proofs

open Machine Claims

/-- Appending words appends the lists of their bits, the lower word's first. -/
theorem getLsbD_append_of_bits {m n : Nat} {u : BitVec m} {v : BitVec n} {as bs : List Bool}
    (hu : ∀ k, u.getLsbD k = as.getD k false) (hv : ∀ k, v.getLsbD k = bs.getD k false) (hlen : bs.length = n) (k : Nat) :
    (u ++ v).getLsbD k = (bs ++ as).getD k false := by
  rw [BitVec.getLsbD_append]
  split
  · rw [List.getD_append _ _ _ _ (by omega), hv]
  · rw [List.getD_append_right _ _ _ _ (by omega), hlen, hu]

/-- A word of reserved bits, all 0, has no bits to list. -/
theorem getLsbD_reserved (m k : Nat) : (0#m).getLsbD k = ([] : List Bool).getD k false := by
  simp

theorem getLsbD_bit (b : Bool) (k : Nat) : (bit b).getLsbD k = [b].getD k false := by
  cases k <;> simp

theorem logicNumber_eq_toNat_codeOfLogic (l : WinLogic) : logicNumber l = (codeOfLogic l).toNat := by
  cases l <;> rfl

theorem testBit_logicNumber_logicOfCode (c : BitVec 2) (i : Nat) : (logicNumber (logicOfCode c)).testBit i = c.getLsbD i := by
  rw [logicNumber_eq_toNat_codeOfLogic, codeOfLogic_logicOfCode, BitVec.testBit_toNat]

/-- The bits of a window's fields from bit 0 up (R42, R91). -/
def winBits (w : WinSel) : List Bool :=
  [w.drawIn, w.drawOut, (logicNumber w.logic).testBit 0, (logicNumber w.logic).testBit 1]

theorem getLsbD_codeOfLogic (l : WinLogic) (k : Nat) :
    (codeOfLogic l).getLsbD k = [(logicNumber l).testBit 0, (logicNumber l).testBit 1].getD k false := by
  rw [logicNumber_eq_toNat_codeOfLogic]
  rcases k with _ | _ | k
  · rfl
  · rfl
  · exact BitVec.getLsbD_of_ge _ _ (by omega)

theorem getLsbD_winWord (w : WinSel) : ∀ k, (winWord w).getLsbD k = (winBits w).getD k false :=
  getLsbD_append_of_bits (getLsbD_append_of_bits (getLsbD_codeOfLogic w.logic) (getLsbD_bit w.drawOut) rfl) (getLsbD_bit w.drawIn) rfl

theorem getLsbD_cmathCtrl (g : Glob) : ∀ k, (cmathCtrl g).getLsbD k = (cmathBits g).getD k false := by
  unfold cmathCtrl cmathBits
  iterate 9 refine getLsbD_append_of_bits (bs := [_]) ?_ (getLsbD_bit _) rfl
  exact getLsbD_reserved 7

theorem getLsbD_bgCtrl (b : Layer) : ∀ k, (bgCtrl b).getLsbD k = (bgBits b).getD k false := by
  unfold bgCtrl
  iterate 4 refine getLsbD_append_of_bits (bs := [_]) ?_ (getLsbD_bit _) rfl
  refine getLsbD_append_of_bits (bs := winBits b.gate.mwin) ?_ (getLsbD_winWord _) rfl
  exact getLsbD_append_of_bits (getLsbD_reserved 4) (getLsbD_winWord b.gate.swin) rfl

theorem cmathBits_setCmathCtrl (g : Glob) (v : Half) : cmathBits (setCmathCtrl g v) = (List.range 9).map v.getLsbD :=
  rfl

theorem winBits_winOfWord (v : Half) (k : Nat) : winBits (winOfWord v k) = (List.range 4).map (fun i => v.getLsbD (k + i)) := by
  simp only [winBits, winOfWord, testBit_logicNumber_logicOfCode, BitVec.getLsbD_extractLsb']
  rfl

theorem bgBits_setBgCtrl (b : Layer) (v : Half) : bgBits (setBgCtrl b v) = (List.range 12).map v.getLsbD := by
  have hm := winBits_winOfWord v 4
  have hs := winBits_winOfWord v 8
  calc bgBits (setBgCtrl b v)
      = [v.getLsbD 0, v.getLsbD 1, v.getLsbD 2, v.getLsbD 3] ++ winBits (winOfWord v 4) ++ winBits (winOfWord v 8) := rfl
    _ = (List.range 12).map v.getLsbD := by rw [hm, hs]; rfl

/-- Settles O26: the word's bits field by field, and a write replaces the global state by the one with the value's bits. -/
theorem cmathCtrlBits : Obligations.CmathCtrlBits :=
  ⟨rfl, fun s v => ⟨getLsbD_cmathCtrl s.glob, s.setGlob (setCmathCtrl s.glob v), rfl, cmathBits_setCmathCtrl s.glob v,
    onlyChanges_setGlob s _⟩⟩

/-- The number of a layer's control register (R42). -/
def bgCtrlNumber : LayerId → Byte
  | .bg0 => 0x10
  | .bg1 => 0x14

theorem regValue_bgCtrlNumber (s : State) (l : LayerId) : regValue s (bgCtrlNumber l) = bgCtrl (s.layer l) := by
  cases l <;> rfl

theorem exec_writeReg_bgCtrlNumber (s : State) (l : LayerId) (v : Half) :
    exec (.writeReg (bgCtrlNumber l) v) s = .next (s.setLayer l (setBgCtrl (s.layer l) v)) := by
  cases l <;> rfl

/-- What BGn_CTRL reads and what a write to it does, for either layer (R42). -/
theorem bgCtrl_read_write (s : State) (l : LayerId) (v : Half) :
    (∀ k, (regValue s (bgCtrlNumber l)).getLsbD k = (bgBits (s.layer l)).getD k false) ∧
    ∃ t, exec (.writeReg (bgCtrlNumber l) v) s = .next t ∧ bgBits (t.layer l) = (List.range 12).map v.getLsbD ∧
      (t.layer l).scrollX = (s.layer l).scrollX ∧ (t.layer l).scrollY = (s.layer l).scrollY ∧ OnlyChanges [layerPart l] s t := by
  refine ⟨?_, s.setLayer l (setBgCtrl (s.layer l) v), exec_writeReg_bgCtrlNumber s l v, ?_, ?_, ?_, onlyChanges_setLayer s l _⟩
  · rw [regValue_bgCtrlNumber]
    exact getLsbD_bgCtrl (s.layer l)
  · rw [layer_setLayer, bgBits_setBgCtrl]
  · rw [layer_setLayer, setBgCtrl]
  · rw [layer_setLayer, setBgCtrl]

/-- Settles O27: one statement for either layer, taken at the layer's register number and component. -/
theorem bgCtrlBits : Obligations.BgCtrlBits := by
  refine ⟨rfl, rfl, fun s l v => ?_⟩
  cases l with
  | bg0 => exact bgCtrl_read_write s .bg0 v
  | bg1 => exact bgCtrl_read_write s .bg1 v

end Sys2Proof.Proofs
end

/-! PARAM (R44). -/
section
namespace Sys2Proof.Proofs

open Machine Claims

theorem regValue_param (s : State) : regValue s 0x21 = paramWord s.params := rfl

theorem paramWord_mapLog2 (p : Params) : slice (paramWord p) 0 4 = p.mapLog2 :=
  BitVec.extractLsb'_append_eq_right

theorem paramWord_sheetWLog2 (p : Params) : slice (paramWord p) 4 4 = p.sheetWLog2 :=
  slice_slice_mid (0#4 ++ p.sheetHLog2) p.sheetWLog2 p.mapLog2

theorem paramWord_sheetHLog2 (p : Params) : slice (paramWord p) 8 4 = p.sheetHLog2 :=
  (BitVec.extractLsb'_append_eq_of_le (by decide)).trans (slice_slice_mid 0#4 p.sheetHLog2 p.sheetWLog2)

theorem paramWord_reserved (p : Params) : slice (paramWord p) 12 4 = 0 :=
  (BitVec.extractLsb'_append_eq_of_le (by decide)).trans (slice_slice_high 0#4 p.sheetHLog2 p.sheetWLog2)

theorem mapLog2_of_mapSize {p : Params} (h : p.mapSize = 512) : p.mapLog2 = 9 := by
  have h2 : 2 ^ p.mapLog2.toNat = 2 ^ 9 := h
  exact BitVec.eq_of_toNat_eq (Nat.pow_right_injective (Nat.le_refl 2) h2)

/-- Every step that completes, a reset among them, keeps the parameters (R44). -/
theorem step_keeps_params {s t : State} (h : step s = .next t) : t.params = s.params := by
  obtain ⟨i, rest, -, hexec⟩ | ⟨rest, -, rfl⟩ | ⟨p, rest, -, -, rfl⟩ | ⟨rest, -, rfl⟩ := step_cases h
  · exact (exec_keeps hexec).1
  · rfl
  · rfl
  · rfl

/-- Settles O56: PARAM's value is made of the parameters alone, and every step keeps those. -/
theorem paramIsHardwired : Obligations.ParamIsHardwired := by
  refine ⟨fun s => ?_, fun s v => rfl, fun s t h => ?_⟩
  · rw [regValue_param, paramWord_mapLog2, paramWord_sheetWLog2, paramWord_sheetHLog2, paramWord_reserved]
    exact ⟨rfl, rfl, rfl, rfl, mapLog2_of_mapSize⟩
  · rw [regValue_param, regValue_param, step_keeps_params h]

end Sys2Proof.Proofs
end

/-! The state after reset (R51). -/
section
namespace Sys2Proof.Proofs

open Machine Claims

theorem reset_sprite (i : Byte) : State.reset.sprite i = Sprite.default :=
  Vector.getElem_replicate i.isLt

/-- An element of the empty store, which every plane is after reset, is 0x0000 (R62). -/
theorem readElem_nil (k : Nat) : Memory.readElem [] k = 0 := by
  rw [Memory.readElem, Memory.readByte, Memory.readByte]
  rfl

theorem reset_readReg {r : Reg} (h : r ≠ .param) : State.reset.readReg r = 0 := by
  cases r with
  | param => exact absurd rfl h
  | _ => rfl

theorem reset_regValue {n : Byte} (hn : n ≠ 0x21) : regValue State.reset n = 0 := by
  cases h : regOfNumber n with
  | none => exact regValue_of_reserved h _
  | some r =>
    rw [regValue_of_regOfNumber h]
    refine reset_readReg fun hr => hn (eq_of_regOfNumber_eq_param ?_)
    rw [h, hr]

/-- Settles O11: the OAM, register and plane clauses are lemmas; the other fields are read off `State.reset`. -/
theorem resetState : Obligations.ResetState :=
  ⟨reset_sprite, rfl, rfl, rfl, reset_regValue (by decide), regValue_param _, fun _ => reset_regValue,
    fun k => ⟨readElem_nil k, readElem_nil k, readElem_nil k, readElem_nil k⟩, rfl, rfl⟩

end Sys2Proof.Proofs
end

/-! The effective extents of a sprite (R25). -/
section
namespace Sys2Proof.Proofs

open Machine

/-- Twice a byte is at most 510. -/
theorem effW_le (p : Sprite) : effW p ≤ 510 := by
  have hw := p.width.isLt
  unfold effW
  split <;> omega

theorem effH_le (p : Sprite) : effH p ≤ 510 := by
  have hh := p.height.isLt
  unfold effH
  split <;> omega

/-- Settles O36: the two cases of the double-size flag. -/
theorem effectiveExtents : Obligations.EffectiveExtents :=
  fun p => ⟨fun h => ⟨if_pos h, if_pos h⟩, fun h => ⟨by simp [effW, h], by simp [effH, h]⟩, effW_le p, effH_le p⟩

end Sys2Proof.Proofs
end

/-! Sheet sampling (R66). -/
section
namespace Sys2Proof.Proofs

open Machine

/-- Reducing the row and the column reaches the element that reducing the index reaches, for a column inside the plane. -/
theorem planeIndex_mod {W c : Nat} (H r : Nat) (hc : c < W) :
    planeIndex W (r % H) (c % W) = (r * W + c) % (W * H) := by
  have hcol : (r * W + c) % W = c := Nat.mul_add_mod_of_lt hc
  have hrow : (r * W + c) / W = r := by
    rw [Nat.mul_comm, Nat.mul_add_div (Nat.zero_lt_of_lt hc), Nat.div_eq_of_lt hc, Nat.add_zero]
  rw [Nat.mod_mul, hcol, hrow, planeIndex, Nat.mod_eq_of_lt hc, Nat.mul_comm, Nat.add_comm]

/-- Settles O41: each wrap's sample is its arm of `sheetSample`; they agree because their element indices do. -/
theorem sheetSampleWraps : Obligations.SheetSampleWraps :=
  fun s r _ => ⟨rfl, rfl, fun hc => congrArg s.sheet.readElem (planeIndex_mod s.params.sheetH r hc)⟩

end Sys2Proof.Proofs
end

/-! The frame image (R70). -/
section
namespace Sys2Proof.Proofs

open Machine

/-- Where every item contributes two values, item `k`'s stand at `2 * k` and `2 * k + 1`. -/
theorem getElem?_flatMap_of_pair {α β : Type} {g : α → List β} (hg : ∀ x, (g x).length = 2) {l : List α} {k : Nat} {x : α} {a b : β}
    (hk : l[k]? = some x) (hx : g x = [a, b]) :
    (l.flatMap g)[2 * k]? = some a ∧ (l.flatMap g)[2 * k + 1]? = some b := by
  induction l generalizing k with
  | nil => simp at hk
  | cons y l ih =>
    rw [List.flatMap_cons]
    cases k with
    | zero =>
      obtain rfl : y = x := by simpa using hk
      rw [hx]
      exact ⟨rfl, rfl⟩
    | succ k =>
      have hlater (i : Nat) : (g y ++ l.flatMap g)[i + 2]? = (l.flatMap g)[i]? := by
        rw [List.getElem?_append_right (by rw [hg]; omega), hg, Nat.add_sub_cancel]
      obtain ⟨hlow, hhigh⟩ := ih (by simpa using hk)
      exact ⟨(hlater (2 * k)).trans hlow, (hlater (2 * k + 1)).trans hhigh⟩

theorem length_pixelBytes (swap : Bool) (c : Colour) : (pixelBytes swap c).length = 2 := by
  cases swap <;> rfl

theorem length_bytes (f : FrameOut) : f.bytes.length = 115200 := by
  simp only [FrameOut.bytes, List.length_flatMap, length_pixelBytes, List.map_const', List.sum_replicate, List.length_range]
  rfl

/-- The two bytes of element `k` stand at `2 * k` and `2 * k + 1` of the frame image. -/
theorem getElem?_bytes {f : FrameOut} {k : Nat} {a b : Byte} (hk : k < 57600)
    (hpix : pixelBytes f.byteSwap (f.pixels.readElem k) = [a, b]) :
    f.bytes[2 * k]? = some a ∧ f.bytes[2 * k + 1]? = some b :=
  getElem?_flatMap_of_pair (fun _ => length_pixelBytes _ _) (List.getElem?_range hk) hpix

/-- A RENDER sends the frame buffer it leaves, in the chip's byte order. -/
theorem exec_render_sends (s : State) :
    ∃ t, exec .render s = .next t ∧ t.frames = s.frames ++ [{ pixels := t.fb, byteSwap := s.params.fbByteSwap }] := by
  obtain ⟨m, hrender, -, -, -⟩ := renderFrame_eq s
  refine ⟨renderFrame s, rfl, ?_⟩
  rw [hrender]
  rfl

/-- Settles O50: every command keeps the parameters, RENDER sends its frame buffer with theirs, and in either byte order a
pixel's two bytes are read off `pixelBytes`. -/
theorem frameImageBytes : Obligations.FrameImageBytes := by
  refine ⟨rfl, fun i s t h => ?_, fun s => ?_, fun f => ⟨length_bytes f, fun k hk => ⟨fun h => ?_, fun h => ?_⟩⟩⟩
  · rw [(exec_keeps h).1]
  · obtain ⟨t, hexec, hframes⟩ := exec_render_sends s
    exact ⟨t, _, hexec, hframes, rfl, fun _ => rfl⟩
  · exact getElem?_bytes hk (by rw [h]; rfl)
  · exact getElem?_bytes hk (by rw [h]; rfl)

end Sys2Proof.Proofs
end

/-! The window evaluator (42_window_evaluator.md). -/
section
namespace Sys2Proof.Proofs

open Machine

/-- The gate sees the two memberships only through the logic result `L` (R152). -/
theorem window_of_windowLogic {logic : WinLogic} {inA inB l : Bool} (hl : windowLogic logic inA inB = l) (drawIn drawOut : Bool) :
    window logic inA inB drawIn drawOut = ((l && drawIn) || (!l && drawOut)) := by
  rw [← hl]
  rfl

/-- The logic result each of the four codes selects, in the order of the codes (R91, R150). -/
theorem windowLogic_logicOfCode (inA inB : Bool) :
    windowLogic (logicOfCode 0) inA inB = (inA == inB) ∧ windowLogic (logicOfCode 1) inA inB = xor inA inB ∧
    windowLogic (logicOfCode 2) inA inB = (inA && inB) ∧ windowLogic (logicOfCode 3) inA inB = (inA || inB) :=
  ⟨rfl, rfl, rfl, rfl⟩

/-- Settles O31: the gate depends on `L` alone, and each code selects its own `L`. -/
theorem windowGateTruthTable : Obligations.WindowGateTruthTable := by
  intro inA inB drawIn drawOut
  obtain ⟨hxnor, hxor, hand, hor⟩ := windowLogic_logicOfCode inA inB
  exact ⟨window_of_windowLogic hxnor drawIn drawOut, window_of_windowLogic hxor drawIn drawOut,
    window_of_windowLogic hand drawIn drawOut, window_of_windowLogic hor drawIn drawOut⟩

end Sys2Proof.Proofs
end

/-! The layer compositor (43_layer_compositor.md). A background layer and a sprite differ only in when they take part and in
their sample; what they then write is `paint_writes`. -/
section
namespace Sys2Proof.Proofs

open Machine

section
variable {g : Glob} {x : Nat} {o : Gate} {c : Colour} {w : Work} {needsOpaque : Bool}

theorem paintMain_of_pass (h : c ≠ 0 ∧ o.drawMain = true ∧ windowAt g o.mwin x = true) :
    paintMain g x o c w = { w with mainColor := c, colorMathFlag := o.cmath } :=
  if_pos h

theorem paintMain_of_not_pass (h : ¬ (c ≠ 0 ∧ o.drawMain = true ∧ windowAt g o.mwin x = true)) : paintMain g x o c w = w :=
  if_neg h

theorem paintSub_of_pass (h : (c ≠ 0 ∨ needsOpaque = false) ∧ o.drawSub = true ∧ windowAt g o.swin x = true) :
    paintSub needsOpaque g x o c w = { w with subColor := c } :=
  if_pos h

theorem paintSub_of_not_pass (h : ¬ ((c ≠ 0 ∨ needsOpaque = false) ∧ o.drawSub = true ∧ windowAt g o.swin x = true)) :
    paintSub needsOpaque g x o c w = w :=
  if_neg h

@[simp] theorem paintMain_subColor : (paintMain g x o c w).subColor = w.subColor := by
  unfold paintMain
  split <;> rfl

@[simp] theorem paintSub_mainColor : (paintSub needsOpaque g x o c w).mainColor = w.mainColor := by
  unfold paintSub
  split <;> rfl

@[simp] theorem paintSub_colorMathFlag : (paintSub needsOpaque g x o c w).colorMathFlag = w.colorMathFlag := by
  unfold paintSub
  split <;> rfl

end

/-- When an object with sample `c` writes each working register, and with what (R162, R163, R168, R169). -/
theorem paint_writes (s : State) (x : Nat) (o : Gate) (c : Colour) (w : Work) :
    let M := c ≠ 0 ∧ o.drawMain = true ∧ windowAt s.glob o.mwin x = true
    let S := (c ≠ 0 ∨ s.params.subNeedsOpaque = false) ∧ o.drawSub = true ∧ windowAt s.glob o.swin x = true
    (M → (paint s x o c w).mainColor = c ∧ (paint s x o c w).colorMathFlag = o.cmath) ∧
    (¬ M → (paint s x o c w).mainColor = w.mainColor ∧ (paint s x o c w).colorMathFlag = w.colorMathFlag) ∧
    (S → (paint s x o c w).subColor = c) ∧ (¬ S → (paint s x o c w).subColor = w.subColor) := by
  simp only [paint, paintSub_mainColor, paintSub_colorMathFlag]
  refine ⟨fun h => ?_, fun h => ?_, fun h => ?_, fun h => ?_⟩
  · rw [paintMain_of_pass h]
    exact ⟨rfl, rfl⟩
  · rw [paintMain_of_not_pass h]
    exact ⟨rfl, rfl⟩
  · rw [paintSub_of_pass h]
  · rw [paintSub_of_not_pass h, paintMain_subColor]

theorem bgStep_of_enabled {s : State} {l : LayerId} (h : (s.layer l).enabled = true) (x y : Nat) (w : Work) :
    bgStep s l x y w = paint s x (s.layer l).gate (bgSample s l x y) w :=
  if_pos h

theorem bgStep_of_disabled {s : State} {l : LayerId} (h : (s.layer l).enabled = false) (x y : Nat) (w : Work) :
    bgStep s l x y w = w :=
  if_neg (Bool.eq_false_iff.mp h)

/-- Settles O38: an enabled layer paints its sample, a disabled one does nothing. -/
theorem backgroundStepWrites : Obligations.BackgroundStepWrites := by
  refine fun s l x y w => ⟨fun h => bgStep_of_disabled h x y w, fun h => ?_⟩
  rw [bgStep_of_enabled h]
  exact paint_writes s x (s.layer l).gate (bgSample s l x y) w

/-- The horizontal extent as bounds on `dx = x - s.x` (R166). -/
theorem coversCol_iff (p : Sprite) (x : Nat) :
    coversCol p x = true ↔ 0 ≤ (x : Int) - p.x.toInt ∧ (x : Int) - p.x.toInt < (effW p : Int) := by
  rw [coversCol, Bool.and_eq_true, decide_eq_true_iff, decide_eq_true_iff, sub_nonneg, sub_lt_iff_lt_add']

theorem spriteStepOne_of_covers {s : State} {i : Byte} {x : Nat} (h : coversCol (s.sprite i) x = true) (y : Nat) (w : Work) :
    spriteStepOne s x y w i = paint s x (s.sprite i).gate
      (spriteSample s (s.sprite i) ((x : Int) - (s.sprite i).x.toInt).toNat ((y : Int) - (s.sprite i).y.toInt).toNat) w :=
  if_pos h

theorem spriteStepOne_of_not_covers {s : State} {i : Byte} {x : Nat} (h : ¬ coversCol (s.sprite i) x = true) (y : Nat) (w : Work) :
    spriteStepOne s x y w i = w :=
  if_neg h

/-- Settles O39: a sprite paints its sheet sample where it covers the column, and does nothing elsewhere. -/
theorem spriteStepWrites : Obligations.SpriteStepWrites := by
  refine fun s i x y w => ⟨fun h => spriteStepOne_of_not_covers (mt (coversCol_iff _ x).mp h) y w, fun h => ?_⟩
  rw [spriteStepOne_of_covers ((coversCol_iff _ x).mpr h)]
  exact paint_writes s x (s.sprite i).gate _ w

/-- Settles O47: `composite` is these steps in this order, from `pixelStart`. -/
theorem compositeFixedOrder : Obligations.CompositeFixedOrder :=
  fun _ _ _ _ => rfl

end Sys2Proof.Proofs
end

/-! The colour-math blender (44_color_math.md). A channel of BLEND is the sequence of R190 in the terms of the statements, and
it stays within its width, so that packing the three channels loses nothing. -/
section
namespace Sys2Proof.Proofs

open Machine Claims

/-! What the fields of a packed colour read (R17, R199). -/

theorem red_packColour (r g b : Nat) : (slice (packColour r g b) 11 5).toNat = r % 2 ^ 5 :=
  congrArg BitVec.toNat (slice_slice_high (a := 5) (b := 6) (c := 5) _ _ _)

theorem green_packColour (r g b : Nat) : (slice (packColour r g b) 5 6).toNat = g % 2 ^ 6 :=
  congrArg BitVec.toNat (slice_slice_mid (a := 5) (b := 6) (c := 5) _ _ _)

theorem blue_packColour (r g b : Nat) : (slice (packColour r g b) 0 5).toNat = b % 2 ^ 5 :=
  congrArg BitVec.toNat (slice_low_append (a := 11) (b := 5) _ _)

/-! Each step of the sequence keeps a channel within its width. -/

section
variable {cw a : Nat} (on : Bool)

theorem doubleChannel_lt (h : a < 2 ^ cw) : doubleChannel on cw a < 2 ^ cw := by
  cases on
  · exact h
  · exact Nat.mod_lt _ (Nat.two_pow_pos cw)

theorem halveChannel_le : halveChannel on a ≤ a := by
  cases on
  · exact le_rfl
  · exact Nat.shiftRight_le a 1

theorem addChannel_lt (b : Nat) (h : a < 2 ^ cw) : addChannel on cw a b < 2 ^ cw := by
  cases on
  · exact h
  · exact (min_le_right _ _).trans_lt (Nat.sub_one_lt (Nat.two_pow_pos cw).ne')

theorem subChannel_le (b : Nat) : subChannel on a b ≤ a := by
  cases on
  · exact le_rfl
  · exact Nat.sub_le a b

theorem fadeChannel_lt (level : Byte) (h : a < 2 ^ cw) : fadeChannel on level cw a < 2 ^ cw := by
  cases on
  · exact h
  · exact Nat.mod_lt _ (Nat.two_pow_pos cw)

end

theorem mathChannel_lt (g : Glob) {cw a : Nat} (b : Nat) (h : a < 2 ^ cw) : mathChannel g cw a b < 2 ^ cw :=
  (subChannel_le _ _).trans_lt (addChannel_lt _ _ ((halveChannel_le _).trans_lt (doubleChannel_lt _ h)))

theorem blendChannel_lt (g : Glob) (use : Bool) {cw a : Nat} (b : Nat) (h : a < 2 ^ cw) : blendChannel g use cw a b < 2 ^ cw := by
  cases use
  · exact fadeChannel_lt _ _ h
  · exact fadeChannel_lt _ _ (mathChannel_lt g b h)

/-! Each step in the arithmetic of the statements: a shift is a product or a quotient, the clamped difference is the truncated
one. -/

theorem doubleChannel_eq (on : Bool) (cw a : Nat) : doubleChannel on cw a = if on then (2 * a) % 2 ^ cw else a := by
  rw [doubleChannel, Nat.shiftLeft_eq, pow_one, mul_comm]

theorem halveChannel_eq (on : Bool) (a : Nat) : halveChannel on a = if on then a / 2 else a := by
  rw [halveChannel, Nat.shiftRight_eq_div_pow, pow_one]

theorem subChannel_eq (on : Bool) (a b : Nat) : subChannel on a b = if on then (max ((a : Int) - (b : Int)) 0).toNat else a := by
  have h : a - b = (max ((a : Int) - (b : Int)) 0).toNat := by omega
  rw [subChannel, h]

theorem fadeChannel_eq (on : Bool) (level : Byte) (cw a : Nat) :
    fadeChannel on level cw a = if on then (a * level.toNat / 256) % 2 ^ cw else a := by
  rw [fadeChannel, Nat.shiftRight_eq_div_pow]

theorem blendChannel_eq_blendSpec (g : Glob) (use : Bool) (cw a b : Nat) : blendChannel g use cw a b = blendSpec g use cw a b := by
  cases use
  · rw [blendChannel, fadeChannel_eq]
    rfl
  · simp only [blendChannel, mathChannel, doubleChannel_eq, halveChannel_eq, subChannel_eq, fadeChannel_eq]
    rfl

/-! The two ways BLEND can go (R190, R191). -/

theorem blend_of_bypass {g : Glob} {f : Bool} (huse : (g.cmathEnable && f) = false) (hfade : g.fadeEnable = false) (m s : Colour) :
    blend g m s f = m := by
  simp [blend, huse, hfade]

theorem blend_of_active {g : Glob} {f : Bool} (h : (g.cmathEnable && f) = true ∨ g.fadeEnable = true) (m s : Colour) :
    blend g m s f =
      packColour (blendChannel g (g.cmathEnable && f) 5 (red m) (red s)) (blendChannel g (g.cmathEnable && f) 6 (green m) (green s))
        (blendChannel g (g.cmathEnable && f) 5 (blue m) (blue s)) := by
  have hguard : ¬ (!(g.cmathEnable && f) && !g.fadeEnable) = true := by
    rcases h with h | h <;> simp [h]
  exact if_neg hguard

/-- A channel of BLEND passes through its field of the packed colour unchanged. -/
theorem blendChannel_mod (g : Glob) (use : Bool) {cw : Nat} (a b : BitVec cw) :
    blendChannel g use cw a.toNat b.toNat % 2 ^ cw = blendSpec g use cw a.toNat b.toNat := by
  rw [Nat.mod_eq_of_lt (blendChannel_lt g use _ a.isLt), blendChannel_eq_blendSpec]

/-- Settles O43: the bypass, and else each field of the packed result is its channel's sequence. -/
theorem blendChannelByChannel : Obligations.BlendChannelByChannel := by
  refine fun g m s f => ⟨fun huse hfade => blend_of_bypass huse hfade m s, fun h => ?_⟩
  rw [blend_of_active h, red_packColour, green_packColour, blue_packColour]
  exact ⟨blendChannel_mod g _ _ _, blendChannel_mod g _ _ _, blendChannel_mod g _ _ _⟩

/-- Without colour math BLEND is the fade of the main colour's channels, or that colour itself: no sub colour and no
operation flag stands on the right. -/
theorem blend_of_not_use {g : Glob} {f : Bool} (huse : (g.cmathEnable && f) = false) (m s : Colour) :
    blend g m s f =
      if g.fadeEnable then
        packColour (fadeChannel true g.fadeLevel 5 (red m)) (fadeChannel true g.fadeLevel 6 (green m))
          (fadeChannel true g.fadeLevel 5 (blue m))
      else m := by
  cases hfade : g.fadeEnable
  · exact blend_of_bypass huse hfade m s
  · rw [blend_of_active (.inr hfade), huse]
    simp only [blendChannel, hfade]
    rfl

/-- Settles O44: both results are the fade of the same main colour. -/
theorem subColourNeedsColourMath : Obligations.SubColourNeedsColourMath := by
  intro g g' m s s' f f' huse huse' hfade hlevel
  refine ⟨?_, fun hoff => blend_of_bypass huse hoff m s⟩
  rw [blend_of_not_use huse, blend_of_not_use huse', hfade, hlevel]

end Sys2Proof.Proofs
end

/-! The frame renderer (45_frame_renderer.md). -/
section
namespace Sys2Proof.Proofs

open Machine Claims

/-- What RENDER_FRAME ends with, a stored frame, one event and the transient state, touches these three components only. -/
theorem onlyChanges_setFb_emitFrame_setScan (s : State) (m : Memory) (f : FrameOut) (k : Option Scan) :
    OnlyChanges [.fb, .frames, .scan] s (((s.setFb m).emitFrame f).setScan k) := by
  refine ⟨rfl, fun p hp => ?_⟩
  cases p with
  | fb | frames | scan => simp at hp
  | _ => simp [Unchanged, State.sprite]

/-- Settles O46: `renderFrame_eq` gives the state RENDER leaves and its elements, each a pixel of the pipeline's inputs. -/
theorem renderFillsFrame : Obligations.RenderFillsFrame := by
  refine ⟨fun s fb status port x y => framePixel_congr rfl x y, fun s => ?_⟩
  obtain ⟨m, hrender, hpix, hout, -⟩ := renderFrame_eq s
  have hexec : exec .render s = .next (((s.setFb m).emitFrame { pixels := m, byteSwap := s.params.fbByteSwap }).setScan none) :=
    congrArg Host.Outcome.next hrender
  exact ⟨_, _, hexec, hpix, hout, rfl, fun _ => rfl, rfl, rfl, onlyChanges_setFb_emitFrame_setScan s m _ none⟩

end Sys2Proof.Proofs
end

/-! Frames of the remaining updates of the State, and of a fault. -/
section
namespace Sys2Proof.Proofs

open Machine Claims

/-- Two frames after each other. -/
theorem onlyChanges_append {ps qs : List Part} {s t u : State} (hst : OnlyChanges ps s t) (htu : OnlyChanges qs t u) :
    OnlyChanges (ps ++ qs) s u := by
  obtain ⟨hparams, hparts⟩ := hst
  obtain ⟨hparams', hparts'⟩ := htu
  refine ⟨hparams'.trans hparams, fun p hp => ?_⟩
  obtain ⟨hps, hqs⟩ := not_or.mp (mt List.mem_append.mpr hp)
  have h := hparts p hps
  have h' := hparts' p hqs
  cases p with
  | oam | map0 | map1 | sheet | fb => exact fun a => (h' a).trans (h a)
  | _ => exact h'.trans h

theorem onlyChanges_setSprite (s : State) (i : Byte) (p : Sprite) : OnlyChanges [.oam] s (s.setSprite i p) := by
  refine ⟨rfl, fun q hq => ?_⟩
  cases q with
  | oam => simp at hq
  | _ => simp [Unchanged]

theorem onlyChanges_clearOam (s : State) : OnlyChanges [.oam] s s.clearOam := by
  refine ⟨rfl, fun p hp => ?_⟩
  cases p with
  | oam => simp at hp
  | _ => simp [Unchanged]

theorem onlyChanges_setSheet (s : State) (m : Memory) : OnlyChanges [.sheet] s (s.setSheet m) := by
  refine ⟨rfl, fun p hp => ?_⟩
  cases p with
  | sheet => simp at hp
  | _ => simp [Unchanged, State.sprite]

theorem onlyChanges_setMap (s : State) (l : LayerId) (m : Memory) : OnlyChanges [mapPart l] s (s.setMap l m) := by
  refine ⟨State.setMap_params s l m, fun p hp => ?_⟩
  cases p with
  | map0 =>
    cases l with
    | bg0 => simp [mapPart] at hp
    | bg1 => exact fun _ => rfl
  | map1 =>
    cases l with
    | bg0 => exact fun _ => rfl
    | bg1 => simp [mapPart] at hp
  | _ => simp [Unchanged, State.sprite]

theorem map_setMap (s : State) (l : LayerId) (m : Memory) : (s.setMap l m).map l = m := by
  cases l <;> rfl

theorem onlyChanges_responses (s : State) (ws : List Word) : OnlyChanges [.responses] s { s with responses := ws } := by
  refine ⟨rfl, fun p hp => ?_⟩
  cases p with
  | responses => simp at hp
  | _ => simp [Unchanged, State.sprite]

theorem onlyChanges_respond (s : State) (w : Word) : OnlyChanges [.responses] s (s.respond w) :=
  onlyChanges_responses s _

theorem onlyChanges_raiseFault (c : Cause) (s : State) : OnlyChanges [.status] s (raiseFault c s) := by
  refine ⟨rfl, fun p hp => ?_⟩
  cases p with
  | status => simp at hp
  | _ => simp [Unchanged, State.sprite]

theorem raised_raiseFault (c : Cause) (s : State) : Raised c s (raiseFault c s) :=
  ⟨rfl, fun h => by simp [h], fun h => by simp [h]⟩

/-- A read that faults responds with one zero word and records its cause, and that is all it does (R250). -/
theorem raiseFault_respond_zero (c : Cause) (s : State) :
    (raiseFault c (s.respond 0)).responses = s.responses ++ [0] ∧ Raised c s (raiseFault c (s.respond 0)) ∧
      OnlyChanges [.responses, .status] s (raiseFault c (s.respond 0)) :=
  ⟨rfl, raised_raiseFault c (s.respond 0), onlyChanges_append (onlyChanges_respond s 0) (onlyChanges_raiseFault c _)⟩

theorem onlyChanges_writeReg (s : State) (r : Reg) (v : Half) : OnlyChanges [.bg0, .bg1, .glob] s (s.writeReg r v) := by
  obtain ⟨hparams, hoam, hmap0, hmap1, hsheet, hstatus, hfb, hport, hscan, hinput, hresponses, hframes⟩ := State.writeReg_keeps s r v
  refine ⟨hparams, fun p hp => ?_⟩
  cases p with
  | bg0 | bg1 | glob => simp at hp
  | _ => simp only [Unchanged, State.sprite, hoam, hmap0, hmap1, hsheet, hstatus, hfb, hport, hscan, hinput, hresponses, hframes, implies_true]

end Sys2Proof.Proofs
end

/-! The command words (R95, R104): the opcode selects the command, whatever the bits that its format ignores. -/
section
namespace Sys2Proof.Proofs

open Machine

section
variable {c : Word} (ws : List Word)

theorem decode_nop (h : opcodeOf c = 0x00) : decode (c :: ws) = .command .nop ws := by
  rw [decode, h]
  rfl

theorem decode_setSprite (h : opcodeOf c = 0x02) : decode (c :: ws) = decodeRecord (Instr.setSprite (lowHalf c)) ws := by
  rw [decode, h]
  rfl

theorem decode_getSprite (h : opcodeOf c = 0x03) : decode (c :: ws) = .command (.getSprite (lowHalf c)) ws := by
  rw [decode, h]
  rfl

theorem decode_blitBg (h : opcodeOf c = 0x04) : decode (c :: ws) = decodeBlit (Instr.blitBg (layerField c)) ws := by
  rw [decode, h]
  rfl

theorem decode_blitSheet (h : opcodeOf c = 0x05) : decode (c :: ws) = decodeBlit Instr.blitSheet ws := by
  rw [decode, h]
  rfl

theorem decode_writeReg (h : opcodeOf c = 0x06) : decode (c :: ws) = .command (.writeReg (regField c) (lowHalf c)) ws := by
  rw [decode, h]
  rfl

theorem decode_readReg (h : opcodeOf c = 0x07) : decode (c :: ws) = .command (.readReg (regField c)) ws := by
  rw [decode, h]
  rfl

theorem decode_readFb (h : opcodeOf c = 0x08) : decode (c :: ws) = .command (.readFb (lowHalf c)) ws := by
  rw [decode, h]
  rfl

theorem decode_resetOam (h : opcodeOf c = 0x09) : decode (c :: ws) = .command .resetOam ws := by
  rw [decode, h]
  rfl

end

/-- The payload of a blit: the two rectangle words, one word per pixel of which the low half counts, and what follows (R100). -/
theorem decodeBlit_of_length (mk : Half → Half → Half → Half → List Colour → Instr) {x y w h : Half} {px : List Word}
    (hl : px.length = w.toNat * h.toNat) (rest : List Word) :
    decodeBlit mk ((y ++ x) :: (h ++ w) :: (px ++ rest)) = .command (mk x y w h (px.map lowHalf)) rest := by
  have henough : ¬ (px ++ rest).length < w.toNat * h.toNat := by
    rw [List.length_append]
    omega
  simp only [decodeBlit, lowHalf_append, highHalf_append]
  rw [if_neg henough, List.take_left' hl, List.drop_left' hl]

/-- Settles O17: the meaning is the identity, and opcode 0x00 alone selects it. -/
theorem nopChangesNothing : Obligations.NopChangesNothing :=
  ⟨fun _ => rfl, fun _ ws h => decode_nop ws h⟩

end Sys2Proof.Proofs
end

/-! The object table (R222, R223, R229). -/
section
namespace Sys2Proof.Proofs

open Machine Claims

theorem sprite_setSprite_same (s : State) (i : Byte) (p : Sprite) : (s.setSprite i p).sprite i = p :=
  Vector.getElem_set_self i.isLt

theorem sprite_setSprite_ne (s : State) {i j : Byte} (h : j ≠ i) (p : Sprite) : (s.setSprite i p).sprite j = s.sprite j :=
  Vector.getElem_set_ne i.isLt j.isLt fun hij => h (BitVec.eq_of_toNat_eq hij.symm)

theorem sprite_clearOam (s : State) (i : Byte) : s.clearOam.sprite i = Sprite.default :=
  Vector.getElem_replicate i.isLt

/-- GET_SPRITE sends the three words of its entry, in order, and changes nothing else (R223). -/
theorem exec_getSprite (s : State) (idx : Half) :
    ∃ t, exec (.getSprite idx) s = .next t ∧
      t.responses = s.responses ++
        [packS0 (s.sprite (oamIndex idx)), packS1 (s.sprite (oamIndex idx)), packS2 (s.sprite (oamIndex idx))] ∧
      OnlyChanges [.responses] s t :=
  ⟨_, rfl, by simp, onlyChanges_responses s _⟩

/-- The default sprite's record is three zero words (R24, R93). -/
theorem exec_getSprite_default {s : State} {idx : Half} (h : s.sprite (oamIndex idx) = Sprite.default) :
    ∃ t, exec (.getSprite idx) s = .next t ∧ t.responses = s.responses ++ [0, 0, 0] := by
  obtain ⟨t, hexec, hresp, -⟩ := exec_getSprite s idx
  rw [h] at hresp
  exact ⟨t, hexec, hresp⟩

/-- Settles O18: reading a replaced entry, and the frame of replacing it. -/
theorem setSpriteReplacesEntry : Obligations.SetSpriteReplacesEntry :=
  ⟨fun s idx s0 s1 s2 => ⟨s.setSprite (oamIndex idx) (unpackSprite s0 s1 s2), rfl, sprite_setSprite_same s _ _,
      fun _ hj => sprite_setSprite_ne s hj _, onlyChanges_setSprite s _ _⟩,
    rfl,
    fun _ s0 s1 s2 rest h => decode_setSprite (s0 :: s1 :: s2 :: rest) h⟩

/-- Settles O19: after SET_SPRITE the entry is the unpacked record, whose packed words are the record's. -/
theorem getSpriteReturnsRecord : Obligations.GetSpriteReturnsRecord := by
  refine ⟨exec_getSprite, fun idx => exec_getSprite_default (reset_sprite _), fun s i j s0 s1 s2 hij => ?_,
    fun _ ws h => decode_getSprite ws h⟩
  have hentry : (s.setSprite (oamIndex i) (unpackSprite s0 s1 s2)).sprite (oamIndex j) = unpackSprite s0 s1 s2 := by
    rw [show oamIndex j = oamIndex i from hij.symm, sprite_setSprite_same]
  obtain ⟨u, hexec, hresp, -⟩ := exec_getSprite (s.setSprite (oamIndex i) (unpackSprite s0 s1 s2)) j
  rw [hentry, packS0_unpackSprite, packS1_unpackSprite, packS2_unpackSprite] at hresp
  exact ⟨_, u, rfl, hexec, hresp⟩

/-- Settles O30: every entry of the cleared table is the default sprite, whose record is zero. -/
theorem resetOamDefaultsEveryEntry : Obligations.ResetOamDefaultsEveryEntry :=
  ⟨fun _ ws h => decode_resetOam ws h, fun s => ⟨s.clearOam, rfl, sprite_clearOam s, onlyChanges_clearOam s,
    fun _ => exec_getSprite_default (sprite_clearOam s _)⟩⟩

end Sys2Proof.Proofs
end

/-! The blits (R224, R225). -/
section
namespace Sys2Proof.Proofs

open Machine Claims

/-- Pixel `k` of a blit that fits is at row `y + k / w`, column `x + k % w` (R100). -/
theorem planeRead_blitRows_pixel {W x w y h k : Nat} {px : List Colour} (m : Memory) (hx : x + w ≤ W)
    (hl : px.length = w * h) (hk : k < w * h) :
    (blitRows W x w y h px m).planeRead W (y + k / w) (x + k % w) = px.getD k 0#16 := by
  have hw : 0 < w := Nat.pos_of_mul_pos_right (Nat.zero_lt_of_lt hk)
  have hcol : k % w < w := Nat.mod_lt k hw
  have hrow : k / w < h := Nat.div_lt_of_lt_mul hk
  rw [planeRead_blitRows hx (by omega) h y px m hl, if_pos ⟨⟨Nat.le_add_right _ _, by omega⟩, Nat.le_add_right _ _, by omega⟩,
    Nat.add_sub_cancel_left, Nat.add_sub_cancel_left, Nat.div_add_mod']

section
variable {x y w h : Half} {px : List Colour} (s : State)

theorem execBlitBg_of_empty (l : LayerId) (hempty : w.toNat = 0 ∨ h.toNat = 0) : execBlitBg l x y w h px s = .next s :=
  if_pos hempty

theorem execBlitBg_of_outside (l : LayerId) (hw : 0 < w.toNat) (hh : 0 < h.toNat)
    (hout : s.params.mapSize < x.toNat + w.toNat ∨ s.params.mapSize < y.toNat + h.toNat) :
    execBlitBg l x y w h px s = .next (raiseFault .blitOutOfBounds s) :=
  (if_neg (by omega)).trans (if_pos hout)

theorem execBlitBg_of_fits (l : LayerId) (hw : 0 < w.toNat) (hh : 0 < h.toNat)
    (hx : x.toNat + w.toNat ≤ s.params.mapSize) (hy : y.toNat + h.toNat ≤ s.params.mapSize) :
    execBlitBg l x y w h px s =
      .next (s.setMap l (blitRows s.params.mapSize x.toNat w.toNat y.toNat h.toNat px (s.map l))) :=
  (if_neg (by omega)).trans (if_neg (by omega))

theorem execBlitSheet_of_empty (hempty : w.toNat = 0 ∨ h.toNat = 0) : execBlitSheet x y w h px s = .next s :=
  if_pos hempty

theorem execBlitSheet_of_outside (hw : 0 < w.toNat) (hh : 0 < h.toNat)
    (hout : s.params.sheetW < x.toNat + w.toNat ∨ s.params.sheetH < y.toNat + h.toNat) :
    execBlitSheet x y w h px s = .next (raiseFault .blitOutOfBounds s) :=
  (if_neg (by omega)).trans (if_pos hout)

theorem execBlitSheet_of_fits (hw : 0 < w.toNat) (hh : 0 < h.toNat)
    (hx : x.toNat + w.toNat ≤ s.params.sheetW) (hy : y.toNat + h.toNat ≤ s.params.sheetH) :
    execBlitSheet x y w h px s =
      .next (s.setSheet (blitRows s.params.sheetW x.toNat w.toNat y.toNat h.toNat px s.sheet)) :=
  (if_neg (by omega)).trans (if_neg (by omega))

end

/-- Settles O21: the three regions of the meaning, and `blitRows` read inside and outside the region. -/
theorem blitBgWritesRegion : Obligations.BlitBgWritesRegion := by
  refine ⟨fun c x y w h px rest hop hl => ?_, fun s l x y w h px hl => ⟨fun hempty => ?_, fun hw hh hout => ?_, fun hw hh hx hy => ?_⟩⟩
  · rw [decode_blitBg _ hop]
    exact decodeBlit_of_length _ hl rest
  · exact execBlitBg_of_empty s l hempty
  · exact ⟨_, execBlitBg_of_outside s l hw hh hout, raised_raiseFault _ s, onlyChanges_raiseFault _ s⟩
  · refine ⟨_, execBlitBg_of_fits s l hw hh hx hy, onlyChanges_setMap s l _, ?_⟩
    rw [map_setMap]
    exact ⟨fun k hk => planeRead_blitRows_pixel _ hx hl hk,
      fun a ha => readByte_blitRows_outside hx (by omega) _ _ _ _ hl ha⟩

/-- Settles O22: as BLIT_BG, with the sheet's two sizes. -/
theorem blitSheetWritesRegion : Obligations.BlitSheetWritesRegion := by
  refine ⟨fun c x y w h px rest hop hl => ?_, fun s x y w h px hl => ⟨fun hempty => ?_, fun hw hh hout => ?_, fun hw hh hx hy => ?_⟩⟩
  · rw [decode_blitSheet _ hop]
    exact decodeBlit_of_length _ hl rest
  · exact execBlitSheet_of_empty s hempty
  · exact ⟨_, execBlitSheet_of_outside s hw hh hout, raised_raiseFault _ s, onlyChanges_raiseFault _ s⟩
  · exact ⟨_, execBlitSheet_of_fits s hw hh hx hy, onlyChanges_setSheet s _, fun k hk => planeRead_blitRows_pixel _ hx hl hk,
      fun a ha => readByte_blitRows_outside hx (by omega) _ _ _ _ hl ha⟩

end Sys2Proof.Proofs
end

/-! READ_FB (R228). -/
section
namespace Sys2Proof.Proofs

open Machine Claims

theorem execReadFb_of_lt (s : State) {k : Half} (hk : k.toNat < 57600) :
    execReadFb k s = .next (s.respond (0#16 ++ s.fb.readElem k.toNat)) :=
  if_pos hk

theorem execReadFb_of_ge (s : State) {k : Half} (hk : 57600 ≤ k.toNat) :
    execReadFb k s = .next (raiseFault .fbIndexRange (s.respond 0)) :=
  if_neg (Nat.not_lt.mpr hk)

/-- Settles O29: either side of 57600; an element of the frame buffer of reset is 0, as the response to a bad index is. -/
theorem readFbResponds : Obligations.ReadFbResponds := by
  refine ⟨fun _ ws h => decode_readFb ws h, fun k => ?_, fun s k => ⟨fun hk => ?_, fun hk => ?_⟩⟩
  · rcases Nat.lt_or_ge k.toNat 57600 with hk | hk
    · refine ⟨_, execReadFb_of_lt _ hk, ?_⟩
      rw [State.respond_responses, show State.reset.fb = [] from rfl, readElem_nil]
      rfl
    · exact ⟨_, execReadFb_of_ge _ hk, rfl⟩
  · exact ⟨_, execReadFb_of_lt s hk, rfl, onlyChanges_respond s _⟩
  · exact ⟨_, execReadFb_of_ge s hk, raiseFault_respond_zero .fbIndexRange s⟩

end Sys2Proof.Proofs
end

/-! The registers by number (R40), and what their fields hold (R50). -/
section
namespace Sys2Proof.Proofs

open Machine Claims

/-- The number of a register (R40). -/
def registerNumber : Reg → Byte
  | .mainColor => 0x00
  | .subColor => 0x01
  | .win1Left => 0x02
  | .win1Right => 0x03
  | .win2Left => 0x04
  | .win2Right => 0x05
  | .cmathCtrl => 0x06
  | .fadeLevel => 0x07
  | .bg0Ctrl => 0x10
  | .bg0ScrollX => 0x11
  | .bg0ScrollY => 0x12
  | .bg1Ctrl => 0x14
  | .bg1ScrollX => 0x15
  | .bg1ScrollY => 0x16
  | .status => 0x20
  | .param => 0x21

/-- The numbers of the map name their registers, and no other number names one. -/
theorem map_registerNumber_regOfNumber (n : Byte) :
    (regOfNumber n).map registerNumber = if n ∈ registerNumbers then some n else none := by
  revert n
  decide

theorem registerNumber_of_regOfNumber {n : Byte} {r : Reg} (h : regOfNumber n = some r) : registerNumber r = n := by
  have hmap := map_registerNumber_regOfNumber n
  rw [h] at hmap
  split at hmap
  · exact Option.some.inj hmap
  · cases hmap

theorem regOfNumber_of_mem {n : Byte} (h : n ∈ registerNumbers) : ∃ r, regOfNumber n = some r := by
  have hmap := map_registerNumber_regOfNumber n
  rw [if_pos h] at hmap
  obtain ⟨r, hr, -⟩ := Option.map_eq_some_iff.mp hmap
  exact ⟨r, hr⟩

theorem regOfNumber_of_not_mem {n : Byte} (h : n ∉ registerNumbers) : regOfNumber n = none := by
  have hmap := map_registerNumber_regOfNumber n
  rw [if_neg h] at hmap
  exact Option.map_eq_none_iff.mp hmap

/-- A read-write register reads what was written to it, masked to its fields (R50). -/
theorem readReg_writeReg_same (s : State) {r : Reg} (hstatus : r ≠ .status) (hparam : r ≠ .param) (v : Half) :
    (s.writeReg r v).readReg r = v &&& fieldMask (registerNumber r) := by
  cases r with
  | status => exact absurd rfl hstatus
  | param => exact absurd rfl hparam
  | win1Left | win1Right | win2Left | win2Right | fadeLevel => exact byteReg_readback v
  | cmathCtrl => exact cmathCtrl_setCmathCtrl s.glob v
  | bg0Ctrl => exact bgCtrl_setBgCtrl s.bg0 v
  | bg1Ctrl => exact bgCtrl_setBgCtrl s.bg1 v
  | mainColor | subColor | bg0ScrollX | bg0ScrollY | bg1ScrollX | bg1ScrollY => exact (BitVec.and_allOnes).symm

/-- A word without bits from `n` up has none outside the mask of its `n` lowest bits. -/
theorem and_not_mask_of_bits {v : Half} (n : Nat) (h : ∀ k, n ≤ k → v.getLsbD k = false) :
    v &&& ~~~ BitVec.ofNat 16 (2 ^ n - 1) = 0#16 := by
  refine BitVec.eq_of_getLsbD_eq fun k hk => ?_
  rcases Nat.lt_or_ge k n with hkn | hkn
  · have hmask : (BitVec.ofNat 16 (2 ^ n - 1)).getLsbD k = true := by
      rw [BitVec.getLsbD_ofNat, Nat.testBit_two_pow_sub_one, decide_eq_true hk, decide_eq_true hkn, Bool.and_self]
    rw [BitVec.getLsbD_and, BitVec.getLsbD_not, hmask, Bool.not_true, Bool.and_false, Bool.and_false, BitVec.getLsbD_zero]
  · rw [BitVec.getLsbD_and, h k hkn, Bool.false_and, BitVec.getLsbD_zero]

/-- An 8-bit register field has no bit from 8 up. -/
theorem getLsbD_byteReg (b : Byte) (k : Nat) (hk : 8 ≤ k) : (0#8 ++ b : Half).getLsbD k = false := by
  rw [BitVec.getLsbD_append, if_neg (Nat.not_lt.mpr hk), BitVec.getLsbD_zero]

theorem getLsbD_paramWord (p : Params) (k : Nat) (hk : 12 ≤ k) : (paramWord p).getLsbD k = false := by
  simp only [paramWord, BitVec.getLsbD_append]
  rw [if_neg (by omega), if_neg (by omega), if_neg (by omega), BitVec.getLsbD_zero]

/-- The reserved bits of every register read 0 (R40, R50). -/
theorem readReg_and_not_fieldMask (s : State) (r : Reg) : s.readReg r &&& ~~~ fieldMask (registerNumber r) = 0 := by
  cases r with
  | mainColor | subColor | bg0ScrollX | bg0ScrollY | bg1ScrollX | bg1ScrollY =>
    exact and_not_mask_of_bits 16 fun k hk => BitVec.getLsbD_of_ge _ k hk
  | win1Left | win1Right | win2Left | win2Right | fadeLevel => exact and_not_mask_of_bits 8 (getLsbD_byteReg _)
  | cmathCtrl =>
    exact and_not_mask_of_bits 9 fun k hk => (getLsbD_cmathCtrl s.glob k).trans (List.getD_eq_default _ _ hk)
  | bg0Ctrl => exact and_not_mask_of_bits 12 fun k hk => (getLsbD_bgCtrl s.bg0 k).trans (List.getD_eq_default _ _ hk)
  | bg1Ctrl => exact and_not_mask_of_bits 12 fun k hk => (getLsbD_bgCtrl s.bg1 k).trans (List.getD_eq_default _ _ hk)
  | status =>
    show statusWord s.status &&& ~~~ 0x00F1#16 = 0
    rcases s.status with ⟨fault, cause⟩
    cases fault <;> cases cause <;> rfl
  | param => exact and_not_mask_of_bits 12 (getLsbD_paramWord s.params)

end Sys2Proof.Proofs
end

/-! WRITE_REG and READ_REG (R226, R227). -/
section
namespace Sys2Proof.Proofs

open Machine Claims

theorem execWriteReg_of_regOfNumber {n : Byte} {r : Reg} (h : regOfNumber n = some r) (s : State) (v : Half) :
    execWriteReg n v s = .next (s.writeReg r v) := by
  rw [execWriteReg, h]

theorem execWriteReg_of_reserved {n : Byte} (h : n ∉ registerNumbers) (s : State) (v : Half) :
    execWriteReg n v s = .next (raiseFault .badRegister s) := by
  rw [execWriteReg, regOfNumber_of_not_mem h]

theorem execReadReg_of_mem {n : Byte} (h : n ∈ registerNumbers) (s : State) :
    execReadReg n s = .next (s.respond (0#16 ++ regValue s n)) := by
  obtain ⟨r, hr⟩ := regOfNumber_of_mem h
  rw [execReadReg, hr, regValue_of_regOfNumber hr]

theorem execReadReg_of_reserved {n : Byte} (h : n ∉ registerNumbers) (s : State) :
    execReadReg n s = .next (raiseFault .badRegister (s.respond 0)) := by
  rw [execReadReg, regOfNumber_of_not_mem h]

/-- A register of the map other than STATUS and PARAM stores the fields of the value written; no other number's register
changes, and no component but the layers and the global state (R226). -/
theorem exec_writeReg_stores (s : State) {n : Byte} (v : Half) (hn : n ∈ registerNumbers) (hstatus : n ≠ 0x20) (hparam : n ≠ 0x21) :
    ∃ t, exec (.writeReg n v) s = .next t ∧ regValue t n = v &&& fieldMask n ∧ (∀ m, m ≠ n → regValue t m = regValue s m) ∧
      OnlyChanges [.bg0, .bg1, .glob] s t := by
  obtain ⟨r, hr⟩ := regOfNumber_of_mem hn
  have hnumber := registerNumber_of_regOfNumber hr
  refine ⟨s.writeReg r v, execWriteReg_of_regOfNumber hr s v, ?_, fun m hm => ?_, onlyChanges_writeReg s r v⟩
  · rw [regValue_of_regOfNumber hr, readReg_writeReg_same s (fun h => ?_) (fun h => ?_), hnumber]
    · exact hstatus (by rw [← hnumber, h]; rfl)
    · exact hparam (by rw [← hnumber, h]; rfl)
  · cases hq : regOfNumber m with
    | none => rw [regValue_of_reserved hq, regValue_of_reserved hq]
    | some q =>
      have hqr : q ≠ r := fun h => hm (by rw [← registerNumber_of_regOfNumber hq, h, hnumber])
      rw [regValue_of_regOfNumber hq, regValue_of_regOfNumber hq, State.readReg_writeReg_ne s hqr]

/-- Settles O23: a read-write register stores its fields, the two read-only ones are skipped, a reserved number faults. -/
theorem writeRegStoresFields : Obligations.WriteRegStoresFields := by
  refine ⟨fun _ ws h => decode_writeReg ws h, fun s reg v => ⟨exec_writeReg_stores s v, ?_, fun hreg => ?_⟩⟩
  · rintro (rfl | rfl) <;> rfl
  · exact ⟨_, execWriteReg_of_reserved hreg s v, raised_raiseFault _ s, onlyChanges_raiseFault _ s⟩

theorem regValue_and_not_fieldMask (s : State) {n : Byte} (h : n ∈ registerNumbers) : regValue s n &&& ~~~ fieldMask n = 0 := by
  obtain ⟨r, hr⟩ := regOfNumber_of_mem h
  rw [regValue_of_regOfNumber hr, ← registerNumber_of_regOfNumber hr]
  exact readReg_and_not_fieldMask s r

/-- Settles O24: READ_REG sends `regValue`, whose reserved bits are 0 and which WRITE_REG sets. -/
theorem readRegResponds : Obligations.ReadRegResponds := by
  refine ⟨fun _ ws h => decode_readReg ws h, fun s reg v hreg hstatus hparam => ?_, fun s hscroll => ?_, ?_,
    fun s reg => ⟨fun hreg => ?_, fun hreg => ?_⟩⟩
  · obtain ⟨t, hwrite, hvalue, -, -, hframe⟩ := exec_writeReg_stores s v hreg hstatus hparam
    have hresp : t.responses = s.responses := hframe .responses (by decide)
    refine ⟨t, _, hwrite, execReadReg_of_mem hreg t, ?_⟩
    rw [State.respond_responses, hvalue, hresp]
  · have hbits : s.bg0.scrollX = 0xFFFF := BitVec.eq_of_toInt_eq hscroll
    refine ⟨_, rfl, ?_⟩
    rw [State.respond_responses, State.readReg, hbits]
    rfl
  · refine ⟨_, _, rfl, rfl, ?_⟩
    exact (BitVec.extractLsb'_append_eq_of_add_le (by decide)).trans (paramWord_mapLog2 Config.params)
  · exact ⟨_, execReadReg_of_mem hreg s, rfl, regValue_and_not_fieldMask s hreg, onlyChanges_respond s _⟩
  · exact ⟨_, execReadReg_of_reserved hreg s, raiseFault_respond_zero .badRegister s⟩

end Sys2Proof.Proofs
end

/-! Frames: weakening one, and the frame of taking a command from the port. -/
section
namespace Sys2Proof.Proofs

open Machine Claims

theorem onlyChanges_mono {ps qs : List Part} (hsub : ps ⊆ qs) {s t : State} (h : OnlyChanges ps s t) : OnlyChanges qs s t := by
  obtain ⟨hparams, hparts⟩ := h
  exact ⟨hparams, fun p hp => hparts p fun hps => hp (hsub hps)⟩

/-- A component that came out unchanged leaves the frame's list. -/
theorem onlyChanges_of_cons {p : Part} {ps : List Part} {s t : State} (h : OnlyChanges (p :: ps) s t) (hp : Unchanged p s t) :
    OnlyChanges ps s t := by
  obtain ⟨hparams, hparts⟩ := h
  refine ⟨hparams, fun q hq => ?_⟩
  by_cases hqp : q = p
  · rwa [hqp]
  · exact hparts q fun hmem => (List.mem_cons.mp hmem).elim hqp hq

theorem onlyChanges_accept (s : State) (rest : List HostInput) : OnlyChanges [.port, .input] s (s.accept rest) := by
  refine ⟨rfl, fun p hp => ?_⟩
  cases p with
  | port | input => simp at hp
  | _ => simp [Unchanged, State.sprite]

/-- Taking a command and recording a fault. -/
theorem onlyChanges_raiseFault_accept (c : Cause) (s : State) (rest : List HostInput) :
    OnlyChanges [.port, .input, .status] s (raiseFault c (s.accept rest)) :=
  onlyChanges_append (onlyChanges_accept s rest) (onlyChanges_raiseFault c _)

end Sys2Proof.Proofs
end

/-! What a step does with what stands at the port (R230, R253, R270): a complete command, a reserved opcode, a reset. -/
section
namespace Sys2Proof.Proofs

open Machine Claims

theorem step_of_command {s : State} {i : Instr} {left : List Word} (hd : decode (portWords s) = .command i left)
    (hcut : NotCut s left) : step s = exec i (s.accept (left.map .word ++ afterWords s.input)) := by
  have hfetch : fetch s = .command i (left.map .word ++ afterWords s.input) := fetchFrom_command hd hcut
  rw [step, hfetch]

theorem step_of_illegal {s : State} {op : Byte} {left : List Word} (hd : decode (portWords s) = .illegal op left)
    (hcut : NotCut s left) :
    step s = .next (raiseFault .illegalOpcode (s.accept (left.map .word ++ afterWords s.input))) := by
  have hfetch : fetch s = .illegal (left.map .word ++ afterWords s.input) := fetchFrom_illegal hd hcut
  rw [step, hfetch]

theorem step_of_reset {s : State} {ws : List Word} {rest : List HostInput} (hd : decode (s.port.words ++ ws) = .incomplete)
    (hinput : s.input = ws.map .word ++ .reset :: rest) : step s = .next (s.resetBlock rest) := by
  have hlead : leadingWords s.input = ws := by
    rw [hinput, leadingWords_words]
    exact List.append_nil ws
  have hafter : afterWords s.input = .reset :: rest := by
    rw [hinput, afterWords_words]
    rfl
  have hfetch : fetch s = .reset rest := by
    simp only [fetch, fetchFrom, hlead, hafter, hd]
  rw [step, hfetch]

theorem mem_of_cutShort_reset {left : List Word} {evs rest : List HostInput} {f : Fetched}
    (h : cutShort left evs f = .reset rest) (hf : f ≠ .reset rest) : HostInput.resetInCommand ∈ evs := by
  match left, evs with
  | [], .resetInCommand :: _ => exact List.mem_cons_self
  | [], .directWrite :: _ => cases h
  | [], [] | [], .word _ :: _ | [], .reset :: _ | _ :: _, _ => exact absurd h hf

/-- A fetch finds a reset only where the host asserts one after its words. -/
theorem mem_of_fetchFrom_reset {ws : List Word} {evs rest : List HostInput} (h : fetchFrom ws evs = .reset rest) :
    HostInput.reset ∈ evs ∨ HostInput.resetInCommand ∈ evs := by
  simp only [fetchFrom] at h
  split at h
  · exact .inr (mem_of_cutShort_reset h nofun)
  · exact .inr (mem_of_cutShort_reset h nofun)
  · split at h
    · exact .inl List.mem_cons_self
    · exact .inr List.mem_cons_self
    · cases h
    · cases h

theorem mem_of_mem_afterWords {e : HostInput} {evs : List HostInput} (h : e ∈ afterWords evs) : e ∈ evs := by
  rw [← words_append_after evs]
  exact List.mem_append_right _ h

/-- A step resets only where a reset stands among the host's actions (R270). -/
theorem mem_of_fetch_reset {s : State} {rest : List HostInput} (h : fetch s = .reset rest) :
    HostInput.reset ∈ s.input ∨ HostInput.resetInCommand ∈ s.input :=
  (mem_of_fetchFrom_reset h).imp mem_of_mem_afterWords mem_of_mem_afterWords

end Sys2Proof.Proofs
end

/-! The conditions of R251 and the meanings: a command for which one holds does nothing but respond and raise that cause, and
any other command keeps STATUS. -/
section
namespace Sys2Proof.Proofs

open Machine Claims

/-- The conditions of R251 do not look at the port. -/
theorem causeOf_accept (s : State) (rest : List HostInput) (i : Instr) : causeOf (s.accept rest) i = causeOf s i := by
  cases i <;> rfl

/-- A command that raises a fault makes no other change than its response (R250). -/
theorem exec_of_causeOf_some {s : State} {i : Instr} {c : Cause} (h : causeOf s i = some c) :
    exec i s = .next (raiseFault c { s with responses := s.responses ++ faultResponse i }) := by
  cases i with
  | nop | render | setSprite | getSprite | resetOam => cases h
  | blitBg l x y w h' px =>
    obtain ⟨⟨hw, hh, hout⟩, hc⟩ := Option.ite_none_right_eq_some.mp h
    cases hc
    simp only [faultResponse, List.append_nil]
    exact execBlitBg_of_outside s l hw hh hout
  | blitSheet x y w h' px =>
    obtain ⟨⟨hw, hh, hout⟩, hc⟩ := Option.ite_none_right_eq_some.mp h
    cases hc
    simp only [faultResponse, List.append_nil]
    exact execBlitSheet_of_outside s hw hh hout
  | writeReg reg value =>
    obtain ⟨hreg, hc⟩ := Option.ite_none_left_eq_some.mp h
    cases hc
    simp only [faultResponse, List.append_nil]
    exact execWriteReg_of_reserved hreg s value
  | readReg reg =>
    obtain ⟨hreg, hc⟩ := Option.ite_none_left_eq_some.mp h
    cases hc
    exact execReadReg_of_reserved hreg s
  | readFb k =>
    obtain ⟨hk, hc⟩ := Option.ite_none_left_eq_some.mp h
    cases hc
    exact execReadFb_of_ge s (Nat.not_lt.mp hk)

/-- A command for which no condition of R251 holds keeps STATUS (R252). -/
theorem exec_keeps_status_of_causeOf_none {s t : State} {i : Instr} (h : causeOf s i = none) (hexec : exec i s = .next t) :
    t.status = s.status := by
  cases i with
  | nop | setSprite | getSprite | resetOam => cases hexec; rfl
  | render =>
    injection hexec with hrender
    obtain ⟨-, hstatus, -⟩ := renderFrame_keeps s
    rw [← hrender, hstatus]
  | blitBg l x y w h' px =>
    by_cases hempty : w.toNat = 0 ∨ h'.toNat = 0
    · cases (execBlitBg_of_empty s l hempty).symm.trans hexec
      rfl
    · have hin : ¬ (0 < w.toNat ∧ 0 < h'.toNat ∧ (s.params.mapSize < x.toNat + w.toNat ∨ s.params.mapSize < y.toNat + h'.toNat)) := by
        simpa [causeOf] using h
      cases (execBlitBg_of_fits s l (by omega) (by omega) (by omega) (by omega)).symm.trans hexec
      exact State.setMap_status s l _
  | blitSheet x y w h' px =>
    by_cases hempty : w.toNat = 0 ∨ h'.toNat = 0
    · cases (execBlitSheet_of_empty s hempty).symm.trans hexec
      rfl
    · have hin : ¬ (0 < w.toNat ∧ 0 < h'.toNat ∧ (s.params.sheetW < x.toNat + w.toNat ∨ s.params.sheetH < y.toNat + h'.toNat)) := by
        simpa [causeOf] using h
      cases (execBlitSheet_of_fits s (by omega) (by omega) (by omega) (by omega)).symm.trans hexec
      rfl
  | writeReg reg value =>
    have hreg : reg ∈ registerNumbers := by simpa [causeOf] using h
    obtain ⟨r, hr⟩ := regOfNumber_of_mem hreg
    cases (execWriteReg_of_regOfNumber hr s value).symm.trans hexec
    obtain ⟨-, -, -, -, -, hstatus, -⟩ := State.writeReg_keeps s r value
    exact hstatus
  | readReg reg =>
    have hreg : reg ∈ registerNumbers := by simpa [causeOf] using h
    cases (execReadReg_of_mem hreg s).symm.trans hexec
    rfl
  | readFb k =>
    have hk : k.toNat < 57600 := by simpa [causeOf] using h
    cases (execReadFb_of_lt s hk).symm.trans hexec
    rfl

end Sys2Proof.Proofs
end

/-! Faults in a step (60_exceptions.md section 1). -/
section
namespace Sys2Proof.Proofs

open Machine Claims

/-- A step on a command for which a condition of R251 holds takes the command, sends its response words and records the cause. -/
theorem step_of_fault {s : State} {i : Instr} {left : List Word} {c : Cause} (hd : decode (portWords s) = .command i left)
    (hcut : NotCut s left) (hcause : causeOf s i = some c) :
    step s = .next (raiseFault c
      { s.accept (left.map .word ++ afterWords s.input) with responses := s.responses ++ faultResponse i }) := by
  rw [step_of_command hd hcut]
  exact exec_of_causeOf_some ((causeOf_accept s _ i).trans hcause)

/-- Settles O13: the state after the step is written out, so each clause is read off it; its frame is those of taking the
command, responding and recording the fault. -/
theorem faultingCommandOnlyRecordsTheFault : Obligations.FaultingCommandOnlyRecordsTheFault := by
  refine ⟨fun s i left c hd hcut hcause => ?_, fun s op left hd hcut => ?_⟩
  · have hframe := onlyChanges_append (onlyChanges_accept s (left.map .word ++ afterWords s.input))
      (onlyChanges_append (onlyChanges_responses _ (s.responses ++ faultResponse i)) (onlyChanges_raiseFault c _))
    exact ⟨_, step_of_fault hd hcut hcause, raised_raiseFault c _, rfl, rfl, rfl, onlyChanges_mono (by decide) hframe⟩
  · exact ⟨_, step_of_illegal hd hcut, raised_raiseFault .illegalOpcode _, rfl, rfl,
      onlyChanges_mono (by decide) (onlyChanges_raiseFault_accept _ s _)⟩

/-- Where the host's next action does not cut a command short, what stands behind its words does not either: there are words
between, or there is only that action. -/
theorem leadingWords_ne_nil_or_not_cut {evs : List HostInput} (h : ∀ e ∈ evs.head?, e.cuts = false) :
    leadingWords evs ≠ [] ∨ ∀ e ∈ (afterWords evs).head?, e.cuts = false := by
  match evs with
  | .word _ :: _ => exact .inl (List.cons_ne_nil _ _)
  | [] | .reset :: _ | .resetInCommand :: _ | .directWrite :: _ => exact .inr h

/-- Settles O9: the word is all that `step_of_illegal` takes of the input, and the port it empties was idle before. -/
theorem reservedOpcodeFaults : Obligations.ReservedOpcodeFaults := by
  intro s c rest hidle hinput hop hcut
  have hwords : portWords s = c :: leadingWords rest := by
    rw [portWords, hidle, hinput]
    rfl
  have hafter : afterWords s.input = afterWords rest := by
    rw [hinput]
    rfl
  have hd : decode (portWords s) = .illegal (opcodeOf c) (leadingWords rest) := by
    rw [hwords, decode_reserved hop]
  have hnotcut : NotCut s (leadingWords rest) := by
    rw [NotCut, hafter]
    exact leadingWords_ne_nil_or_not_cut hcut
  have hstep := step_of_illegal hd hnotcut
  rw [hafter, words_append_after] at hstep
  exact ⟨_, hstep, raised_raiseFault .illegalOpcode _, rfl,
    onlyChanges_mono (by decide) (onlyChanges_of_cons (onlyChanges_raiseFault_accept _ s rest) hidle.symm)⟩

/-- A fault on top of a recorded one changes nothing in STATUS (R257). -/
theorem raiseFault_status_of_fault {s : State} (h : s.status.fault = true) (c : Cause) : (raiseFault c s).status = s.status := by
  rw [raiseFault_status, if_pos h, ← h]

/-- No command changes STATUS once a fault is recorded: one that does not fault keeps it, one that does is a nested fault. -/
theorem exec_keeps_status_of_fault {s t : State} {i : Instr} (hfault : s.status.fault = true) (hexec : exec i s = .next t) :
    t.status = s.status := by
  cases hcause : causeOf s i with
  | none => exact exec_keeps_status_of_causeOf_none hcause hexec
  | some c =>
    cases (exec_of_causeOf_some hcause).symm.trans hexec
    exact raiseFault_status_of_fault hfault c

/-- Settles O15: a command and a reserved opcode keep the recorded fault, a wait keeps all but the port, and a reset needs one
among the host's actions. -/
theorem faultStaysUntilReset : Obligations.FaultStaysUntilReset := by
  refine ⟨fun s t hstep hfault hreset hresetIn => ?_, fun s ws rest hd hinput => ⟨_, step_of_reset hd hinput, rfl, rfl⟩⟩
  obtain ⟨i, rest, -, hexec⟩ | ⟨rest, -, rfl⟩ | ⟨p, rest, -, -, rfl⟩ | ⟨rest, hfetch, -⟩ := step_cases hstep
  · exact exec_keeps_status_of_fault (s := s.accept rest) hfault hexec
  · exact raiseFault_status_of_fault (s := s.accept rest) hfault _
  · rfl
  · exact absurd (mem_of_fetch_reset hfetch) (not_or.mpr ⟨hreset, hresetIn⟩)

end Sys2Proof.Proofs
end

/-! Encoding (30_encoding.md section 2). -/
section
namespace Sys2Proof.Proofs

open Machine

section
variable {c : Word} (ws : List Word)

theorem decode_render (h : opcodeOf c = 0x01) : decode (c :: ws) = .command .render ws := by
  rw [decode, h]
  rfl

/-! The number of payload words, by opcode (R101). -/

theorem payloadWords_of_record (h : (opcodeOf c).toNat = 0x02) : payloadWords c ws = some 3 := by
  simp [payloadWords, h]

theorem payloadWords_of_blit (h : (opcodeOf c).toNat = 0x04 ∨ (opcodeOf c).toNat = 0x05) (p0 p1 : Word) :
    payloadWords c (p0 :: p1 :: ws) = some (2 + (lowHalf p1).toNat * (highHalf p1).toNat) := by
  rcases h with h | h <;> simp [payloadWords, h]

theorem payloadWords_of_plain (hrecord : (opcodeOf c).toNat ≠ 0x02) (hbg : (opcodeOf c).toNat ≠ 0x04)
    (hsheet : (opcodeOf c).toNat ≠ 0x05) : payloadWords c ws = some 0 := by
  unfold payloadWords
  split
  · contradiction
  · contradiction
  · contradiction
  · rfl

end

/-- Settles O1: the opcode and the fields of an encoded command word read back, and a blit's payload by
`decodeBlit_encodeBlit`. -/
theorem decodeEncodeRoundTrip : Obligations.DecodeEncodeRoundTrip := by
  intro i rest hwf
  cases i with
  | nop => exact decode_nop rest (opcodeOf_commandWord 0x00 0)
  | render => exact decode_render rest (opcodeOf_commandWord 0x01 0)
  | setSprite idx s0 s1 s2 =>
    refine (decode_setSprite _ (opcodeOf_commandWord 0x02 _)).trans ?_
    rw [lowHalf_commandWord]
    rfl
  | getSprite idx =>
    refine (decode_getSprite rest (opcodeOf_commandWord 0x03 _)).trans ?_
    rw [lowHalf_commandWord]
  | blitBg l x y w h px =>
    refine (decode_blitBg _ (opcodeOf_commandWord 0x04 _)).trans ?_
    rw [layerField_commandWord]
    exact decodeBlit_encodeBlit _ (beq_iff_eq.mp hwf) rest
  | blitSheet x y w h px =>
    refine (decode_blitSheet _ (opcodeOf_commandWord 0x05 _)).trans ?_
    exact decodeBlit_encodeBlit _ (beq_iff_eq.mp hwf) rest
  | writeReg reg value =>
    refine (decode_writeReg rest (opcodeOf_commandWord 0x06 _)).trans ?_
    rw [regField_commandWord, lowHalf_commandWord]
  | readReg reg =>
    refine (decode_readReg rest (opcodeOf_commandWord 0x07 _)).trans ?_
    rw [regField_commandWord]
  | readFb k =>
    refine (decode_readFb rest (opcodeOf_commandWord 0x08 _)).trans ?_
    rw [lowHalf_commandWord]
  | resetOam => exact decode_resetOam rest (opcodeOf_commandWord 0x09 0)

/-- Settles O2: the words of each opcode, evaluated. -/
theorem sampleWordsDecode : Obligations.SampleWordsDecode := by
  unfold Obligations.SampleWordsDecode
  decide

/-- A field inside the low 24 bits of a command word is a field of those bits. -/
theorem slice_congr_of_slice {c d : Word} (h : slice c 0 24 = slice d 0 24) {start len : Nat} (hin : start + len ≤ 24) :
    slice c start len = slice d start len := by
  refine BitVec.eq_of_getLsbD_eq fun i hi => ?_
  have hbit := congrArg (fun v => v.getLsbD (start + i)) h
  simpa [hi, show start + i < 24 by omega] using hbit

/-- Settles O3: the bits a format uses are all its command is decoded from. -/
theorem ignoredBitsNeverMatter : Obligations.IgnoredBitsNeverMatter := by
  intro c d ws hop
  refine ⟨fun h => ?_, fun h (hlow : lowHalf c = lowHalf d) => ?_, fun h hlayer => ?_, fun h hlow => ?_,
    fun h (hreg : regField c = regField d) => ?_⟩
  · rcases h with h | h | h | h
    · rw [decode_nop ws h, decode_nop ws (hop.symm.trans h)]
    · rw [decode_render ws h, decode_render ws (hop.symm.trans h)]
    · rw [decode_blitSheet ws h, decode_blitSheet ws (hop.symm.trans h)]
    · rw [decode_resetOam ws h, decode_resetOam ws (hop.symm.trans h)]
  · rcases h with h | h | h
    · rw [decode_setSprite ws h, decode_setSprite ws (hop.symm.trans h), hlow]
    · rw [decode_getSprite ws h, decode_getSprite ws (hop.symm.trans h), hlow]
    · rw [decode_readFb ws h, decode_readFb ws (hop.symm.trans h), hlow]
  · rw [decode_blitBg ws h, decode_blitBg ws (hop.symm.trans h), layerField, layerField, hlayer]
  · have hreg : regField c = regField d := slice_congr_of_slice hlow (by decide)
    have hvalue : lowHalf c = lowHalf d := slice_congr_of_slice hlow (by decide)
    rw [decode_writeReg ws h, decode_writeReg ws (hop.symm.trans h), hreg, hvalue]
  · rw [decode_readReg ws h, decode_readReg ws (hop.symm.trans h), hreg]

theorem drop_of_decodeRecord {mk : Word → Word → Word → Instr} {ws rest : List Word} {i : Instr}
    (h : decodeRecord mk ws = .command i rest) : 3 ≤ ws.length ∧ rest = ws.drop 3 := by
  match ws, h with
  | _ :: _ :: _ :: _, rfl => exact ⟨Nat.le_add_left 3 _, rfl⟩

/-- A decoded blit took the two rectangle words and one word per pixel of the rectangle. -/
theorem drop_of_decodeBlit {mk : Half → Half → Half → Half → List Colour → Instr} {ws rest : List Word} {i : Instr}
    (h : decodeBlit mk ws = .command i rest) :
    ∃ p0 p1 px, ws = p0 :: p1 :: px ∧ (lowHalf p1).toNat * (highHalf p1).toNat ≤ px.length ∧
      rest = px.drop ((lowHalf p1).toNat * (highHalf p1).toNat) := by
  match ws, h with
  | p0 :: p1 :: px, h =>
    simp only [decodeBlit] at h
    split at h
    · cases h
    · cases h
      exact ⟨p0, p1, px, rfl, Nat.le_of_not_lt ‹_›, rfl⟩

theorem blit_consumes_payload {mk : Half → Half → Half → Half → List Colour → Instr} {c : Word} {ws rest : List Word} {i : Instr}
    (hop : (opcodeOf c).toNat = 0x04 ∨ (opcodeOf c).toNat = 0x05) (h : decodeBlit mk ws = .command i rest) :
    ∃ n, payloadWords c ws = some n ∧ n ≤ ws.length ∧ rest = ws.drop n := by
  obtain ⟨p0, p1, px, rfl, hlen, rfl⟩ := drop_of_decodeBlit h
  refine ⟨_, payloadWords_of_blit px hop p0 p1, ?_, ?_⟩
  · simp only [List.length_cons]
    omega
  · rw [Nat.add_comm]
    rfl

/-- Settles O4: along the decoder's opcodes; those without a payload leave all the words. -/
theorem commandConsumesItsPayload : Obligations.CommandConsumesItsPayload := by
  intro c ws rest i h
  simp only [decode] at h
  split at h
  case h_3 hop => exact ⟨3, payloadWords_of_record ws hop, drop_of_decodeRecord h⟩
  case h_5 hop => exact blit_consumes_payload (.inl hop) h
  case h_6 hop => exact blit_consumes_payload (.inr hop) h
  case h_11 => cases h
  all_goals
    cases h
    exact ⟨0, payloadWords_of_plain ws (by omega) (by omega) (by omega), Nat.zero_le _, rfl⟩

end Sys2Proof.Proofs
end

/-! The invariant (O53, O54): each update of the State keeps it, so each command does. -/
section
namespace Sys2Proof.Proofs

open Machine Claims

section
variable {s : State} (hinv : Inv s)
include hinv

/-- A command taken from the port leaves the port idle, which is no complete command. -/
theorem inv_accept (rest : List HostInput) : Inv (s.accept rest) :=
  { hinv with port_partial := rfl }

theorem inv_setPort {p : Port} (hp : decode p.words = .incomplete) (rest : List HostInput) : Inv (s.setPort p rest) :=
  { hinv with port_partial := hp }

theorem inv_responses (ws : List Word) : Inv { s with responses := ws } :=
  { hinv with }

theorem inv_setSprite (i : Byte) (p : Sprite) : Inv (s.setSprite i p) :=
  { hinv with }

theorem inv_clearOam : Inv s.clearOam :=
  { hinv with }

theorem inv_setGlob (g : Glob) : Inv (s.setGlob g) :=
  { hinv with }

theorem inv_setLayer (l : LayerId) (b : Layer) : Inv (s.setLayer l b) := by
  cases l <;> exact { hinv with }

theorem inv_setMap (l : LayerId) {m : Memory} (hm : m.ok s.params.mapBytes) : Inv (s.setMap l m) := by
  cases l
  · exact { hinv with map0_ok := hm }
  · exact { hinv with map1_ok := hm }

theorem map_ok (l : LayerId) : (s.map l).ok s.params.mapBytes := by
  cases l
  · exact hinv.map0_ok
  · exact hinv.map1_ok

theorem inv_setSheet {m : Memory} (hm : m.ok s.params.sheetBytes) : Inv (s.setSheet m) :=
  { hinv with sheet_ok := hm }

/-- A fault recorded on top of a recorded one keeps its cause, which is not `none`; a first one brings its own. -/
theorem inv_raiseFault {c : Cause} (hc : c ≠ .none) : Inv (raiseFault c s) := by
  have hcause : (raiseFault c s).status.cause ≠ .none := by
    rw [raiseFault_status]
    cases hfault : s.status.fault with
    | false => exact hc
    | true => exact fun hnone => absurd (hinv.status_ok.mpr hnone) (by simp [hfault])
  exact { hinv with status_ok := iff_of_false nofun hcause }

theorem inv_writeReg (r : Reg) (v : Half) : Inv (s.writeReg r v) := by
  cases r with
  | mainColor | subColor | win1Left | win1Right | win2Left | win2Right | cmathCtrl | fadeLevel => exact inv_setGlob hinv _
  | bg0Ctrl | bg0ScrollX | bg0ScrollY => exact inv_setLayer hinv .bg0 _
  | bg1Ctrl | bg1ScrollX | bg1ScrollY => exact inv_setLayer hinv .bg1 _
  | status | param => exact hinv

/-- The frame sent is the frame buffer that the scanlines leave, canonical and within its size. -/
theorem inv_renderFrame : Inv (renderFrame s) := by
  obtain ⟨m, hrender, -, -, hok⟩ := renderFrame_eq s
  have hm : m.ok fbBytes := hok hinv.fb_ok
  rw [hrender]
  refine { hinv with fb_ok := hm, frames_ok := fun f hf => ?_, scan_none := rfl }
  rcases List.mem_append.mp hf with hf | hf
  · exact hinv.frames_ok f hf
  · rw [List.mem_singleton.mp hf]
    exact hm

end

/-- A reset keeps, of what the invariant speaks of, the parameters and the frames sent; every plane is empty. -/
theorem inv_resetBlock {s : State} (hframes : ∀ f ∈ s.frames, f.pixels.ok fbBytes) (rest : List HostInput) :
    Inv (s.resetBlock rest) where
  map0_ok := ⟨Memory.wf_nil, Memory.within_nil _⟩
  map1_ok := ⟨Memory.wf_nil, Memory.within_nil _⟩
  sheet_ok := ⟨Memory.wf_nil, Memory.within_nil _⟩
  fb_ok := ⟨Memory.wf_nil, Memory.within_nil _⟩
  frames_ok := hframes
  port_partial := rfl
  status_ok := iff_of_true rfl rfl
  scan_none := rfl

theorem ok_blitRows {W x w y h n : Nat} {m : Memory} (hm : m.ok (2 * (n * W))) (hx : x + w ≤ W) (hy : y + h ≤ n) (px : List Colour) :
    (blitRows W x w y h px m).ok (2 * (n * W)) :=
  ⟨Memory.wf_blitRows h y px m hm.1, Memory.within_blitRows hx h y px m hy hm.2⟩

theorem causeOf_ne_none {s : State} {i : Instr} : causeOf s i ≠ some .none := by
  cases i <;> simp [causeOf]

theorem exec_keeps_inv_of_causeOf_none {s t : State} {i : Instr} (hinv : Inv s) (hcause : causeOf s i = none)
    (hexec : exec i s = .next t) : Inv t := by
  cases i with
  | nop => cases hexec; exact hinv
  | render =>
    injection hexec with hrender
    exact hrender ▸ inv_renderFrame hinv
  | setSprite idx s0 s1 s2 => cases hexec; exact inv_setSprite hinv _ _
  | getSprite idx => cases hexec; exact inv_responses hinv _
  | resetOam => cases hexec; exact inv_clearOam hinv
  | blitBg l x y w h px =>
    by_cases hempty : w.toNat = 0 ∨ h.toNat = 0
    · cases (execBlitBg_of_empty s l hempty).symm.trans hexec
      exact hinv
    · have hin : ¬ (0 < w.toNat ∧ 0 < h.toNat ∧ (s.params.mapSize < x.toNat + w.toNat ∨ s.params.mapSize < y.toNat + h.toNat)) := by
        simpa [causeOf] using hcause
      cases (execBlitBg_of_fits s l (by omega) (by omega) (by omega) (by omega)).symm.trans hexec
      exact inv_setMap hinv l (ok_blitRows (map_ok hinv l) (by omega) (by omega) px)
  | blitSheet x y w h px =>
    by_cases hempty : w.toNat = 0 ∨ h.toNat = 0
    · cases (execBlitSheet_of_empty s hempty).symm.trans hexec
      exact hinv
    · have hin : ¬ (0 < w.toNat ∧ 0 < h.toNat ∧ (s.params.sheetW < x.toNat + w.toNat ∨ s.params.sheetH < y.toNat + h.toNat)) := by
        simpa [causeOf] using hcause
      cases (execBlitSheet_of_fits s (by omega) (by omega) (by omega) (by omega)).symm.trans hexec
      exact inv_setSheet hinv (ok_blitRows hinv.sheet_ok (by omega) (by omega) px)
  | writeReg reg value =>
    have hreg : reg ∈ registerNumbers := by simpa [causeOf] using hcause
    obtain ⟨r, hr⟩ := regOfNumber_of_mem hreg
    cases (execWriteReg_of_regOfNumber hr s value).symm.trans hexec
    exact inv_writeReg hinv r value
  | readReg reg =>
    have hreg : reg ∈ registerNumbers := by simpa [causeOf] using hcause
    cases (execReadReg_of_mem hreg s).symm.trans hexec
    exact inv_responses hinv _
  | readFb k =>
    have hk : k.toNat < 57600 := by simpa [causeOf] using hcause
    cases (execReadFb_of_lt s hk).symm.trans hexec
    exact inv_responses hinv _

/-- Every command keeps the invariant: one that faults only responds and records its cause. -/
theorem exec_keeps_inv {s t : State} {i : Instr} (hinv : Inv s) (hexec : exec i s = .next t) : Inv t := by
  cases hcause : causeOf s i with
  | none => exact exec_keeps_inv_of_causeOf_none hinv hcause hexec
  | some c =>
    cases (exec_of_causeOf_some hcause).symm.trans hexec
    exact inv_raiseFault (inv_responses hinv _) fun hc => causeOf_ne_none (hc ▸ hcause)

/-- Settles O54: by what a step can do; a waiting port holds an incomplete command. -/
theorem stepKeepsInv : Obligations.StepKeepsInv := by
  intro s t hinv hstep
  obtain ⟨i, rest, -, hexec⟩ | ⟨rest, -, rfl⟩ | ⟨p, rest, -, hpartial, rfl⟩ | ⟨rest, -, rfl⟩ := step_cases hstep
  · exact exec_keeps_inv (inv_accept hinv rest) hexec
  · exact inv_raiseFault (inv_accept hinv rest) nofun
  · exact inv_setPort hinv hpartial rest
  · exact inv_resetBlock hinv.frames_ok rest

/-- Settles O53: the state after reset is what a reset of it gives. -/
theorem resetMeetsInv : Obligations.ResetMeetsInv :=
  inv_resetBlock (s := State.reset) nofun []

end Sys2Proof.Proofs
end

/-! The port (10_state.md section 7): what a fetch finds behind the words the host has sent, and how a step depends on it. -/
section
namespace Sys2Proof.Proofs

open Machine Claims

section
variable {s : State} {ws : List Word} {evs : List HostInput}

theorem afterWords_of_leadingWords_nil (h : leadingWords evs = []) : afterWords evs = evs := by
  have happend := words_append_after evs
  rwa [h] at happend

/-- The words at the port are those received and those the host sends up to its first other action. -/
theorem portWords_of_input (hinput : s.input = ws.map .word ++ evs) (hevs : leadingWords evs = []) :
    portWords s = s.port.words ++ ws := by
  rw [portWords, hinput, leadingWords_words, hevs, List.append_nil]

theorem afterWords_of_input (hinput : s.input = ws.map .word ++ evs) (hevs : leadingWords evs = []) : afterWords s.input = evs := by
  rw [hinput, afterWords_words, afterWords_of_leadingWords_nil hevs]

end

/-- A step depends on the port and the host's input only through what it fetches: whatever it does, it replaces both. -/
theorem step_congr_of_fetch {s : State} {p q : Port} {r r' : List HostInput} (h : fetch (s.setPort p r) = fetch (s.setPort q r')) :
    step (s.setPort p r) = step (s.setPort q r') := by
  rw [step, step, h]
  cases fetch (s.setPort q r') <;> rfl

/-- A port that already holds the first words of a stream fetches what a port that is sent them fetches. -/
theorem fetch_setPort_ofWords (s : State) (p : Port) (first : List Word) (r : List HostInput) :
    fetch (s.setPort (Port.ofWords (p.words ++ first)) r) = fetch (s.setPort p (first.map .word ++ r)) := by
  simp only [fetch, State.setPort_port, State.setPort_input, Port.words_ofWords, leadingWords_words, afterWords_words,
    List.append_assoc]

theorem fetchFrom_nil {ws : List Word} (h : decode ws = .incomplete) : fetchFrom ws [] = .wait (Port.ofWords ws) [] := by
  simp only [fetchFrom, h]

theorem step_of_incomplete {s : State} (hd : decode (portWords s) = .incomplete) (hafter : afterWords s.input = []) :
    step s = .next (s.setPort (Port.ofWords (portWords s)) []) := by
  have hfetch : fetch s = .wait (Port.ofWords (portWords s)) [] := by
    rw [fetch, hafter]
    exact fetchFrom_nil hd
  rw [step, hfetch]

theorem onlyChanges_setPort (s : State) (p : Port) (rest : List HostInput) : OnlyChanges [.port, .input] s (s.setPort p rest) := by
  refine ⟨rfl, fun q hq => ?_⟩
  cases q with
  | port | input => simp at hq
  | _ => simp [Unchanged, State.sprite]

/-- A step on an incomplete command with nothing but words sent keeps them at the port. -/
theorem step_receives {s : State} {ws : List Word} (hinput : s.input = ws.map .word) (hd : decode (s.port.words ++ ws) = .incomplete) :
    step s = .next (s.setPort (Port.ofWords (s.port.words ++ ws)) []) := by
  have hinput' : s.input = ws.map .word ++ [] := hinput.trans (List.append_nil _).symm
  have hwords := portWords_of_input hinput' rfl
  have hstep := step_of_incomplete (hwords ▸ hd) (afterWords_of_input hinput' rfl)
  rwa [hwords] at hstep

/-- Settles O5: `step_of_command`, with the record update of `accept` written out. -/
theorem stepRunsDecodedCommand : Obligations.StepRunsDecodedCommand :=
  fun _ _ _ hd hcut => step_of_command hd hcut

/-- Settles O6: the step puts the words at the port, and nothing else. -/
theorem incompleteCommandWaits : Obligations.IncompleteCommandWaits :=
  fun s _ hinput hd => ⟨_, step_receives hinput hd, Port.words_ofWords _, rfl, onlyChanges_setPort s _ _⟩

/-- Settles O7: after the first piece the port holds its words, and then a step fetches what it would fetch from all at once. -/
theorem payloadMayArriveInPieces : Obligations.PayloadMayArriveInPieces := by
  intro s first later evs hd
  refine ⟨_, step_receives (s := { s with input := first.map .word }) rfl hd, ?_⟩
  have hfetch := fetch_setPort_ofWords s s.port first (later.map .word ++ evs)
  rw [← List.append_assoc, ← List.map_append] at hfetch
  exact step_congr_of_fetch hfetch

/-- Settles O8: the idle port has received no word, so the step waits with none. -/
theorem idleBlockHoldsState : Obligations.IdleBlockHoldsState := by
  intro s hport hinput
  have hd : decode (s.port.words ++ []) = .incomplete := by rw [hport]; rfl
  rw [step_receives hinput hd, hport]
  exact congrArg Host.Outcome.next (by cases s; cases hport; cases hinput; rfl)

/-! A second writer (R280). -/

/-- The words make one command, one reserved opcode, or a part of a command, and no more: what the host does next comes before
that command has finished. -/
def NoWordLeft (ws : List Word) : Prop :=
  decode ws = .incomplete ∨ (∃ i, decode ws = .command i []) ∨ ∃ op, decode ws = .illegal op []

theorem fetchFrom_directWrite {ws : List Word} (hws : NoWordLeft ws) (rest : List HostInput) :
    fetchFrom ws (.directWrite :: rest) = .secondWriter := by
  obtain hd | ⟨i, hd⟩ | ⟨op, hd⟩ := hws <;> simp only [fetchFrom, hd, cutShort]

theorem step_of_directWrite {s : State} {rest : List HostInput} (hws : NoWordLeft (portWords s))
    (hafter : afterWords s.input = .directWrite :: rest) : step s = .refused .secondWriter := by
  have hfetch : fetch s = .secondWriter := by
    rw [fetch, hafter]
    exact fetchFrom_directWrite hws rest
  rw [step, hfetch]

theorem mem_of_cutShort_secondWriter {left : List Word} {evs : List HostInput} {f : Fetched}
    (h : cutShort left evs f = .secondWriter) (hf : f ≠ .secondWriter) : HostInput.directWrite ∈ evs := by
  match left, evs with
  | [], .directWrite :: _ => exact List.mem_cons_self
  | [], .resetInCommand :: _ => cases h
  | [], [] | [], .word _ :: _ | [], .reset :: _ | _ :: _, _ => exact absurd h hf

/-- A fetch finds a second writer only where one stands after the words. -/
theorem mem_of_fetchFrom_secondWriter {ws : List Word} {evs : List HostInput} (h : fetchFrom ws evs = .secondWriter) :
    HostInput.directWrite ∈ evs := by
  simp only [fetchFrom] at h
  split at h
  · exact mem_of_cutShort_secondWriter h nofun
  · exact mem_of_cutShort_secondWriter h nofun
  · split at h
    · cases h
    · cases h
    · exact List.mem_cons_self
    · cases h

/-- Every step completes unless it fetches a second writer (R280). -/
theorem step_next_or_secondWriter (s : State) :
    (∃ t, step s = .next t) ∨ (step s = .refused .secondWriter ∧ fetch s = .secondWriter) := by
  unfold step
  cases fetch s with
  | command i rest => exact .inl (exec_next i _)
  | illegal rest => exact .inl ⟨_, rfl⟩
  | wait p rest => exact .inl ⟨_, rfl⟩
  | reset rest => exact .inl ⟨_, rfl⟩
  | secondWriter => exact .inr ⟨rfl, rfl⟩

/-- Settles O10: a step that fetches a second writer has one among the host's actions, and one right behind the words is
fetched whatever they decode to. -/
theorem onlySecondWriterIsRefused : Obligations.OnlySecondWriterIsRefused := by
  refine ⟨fun s => ?_, fun s i rest hd hafter => ?_, fun s op rest hd hafter => ?_, fun s rest hd hafter => ?_⟩
  · exact (step_next_or_secondWriter s).imp_right
      (And.imp_right fun hfetch => mem_of_mem_afterWords (mem_of_fetchFrom_secondWriter hfetch))
  · exact step_of_directWrite (.inr (.inl ⟨i, hd⟩)) hafter
  · exact step_of_directWrite (.inr (.inr ⟨op, hd⟩)) hafter
  · exact step_of_directWrite (.inl hd) hafter

/-! A reset while a command is in progress (R270). -/

theorem fetchFrom_resetInCommand {ws : List Word} (hws : NoWordLeft ws) (rest : List HostInput) :
    fetchFrom ws (.resetInCommand :: rest) = .reset rest := by
  obtain hd | ⟨i, hd⟩ | ⟨op, hd⟩ := hws <;> simp only [fetchFrom, hd, cutShort]

theorem step_of_resetInCommand {s : State} {ws : List Word} {rest : List HostInput} (hws : NoWordLeft (s.port.words ++ ws))
    (hinput : s.input = ws.map .word ++ .resetInCommand :: rest) : step s = .next (s.resetBlock rest) := by
  have hfetch : fetch s = .reset rest := by
    rw [← portWords_of_input hinput rfl] at hws
    rw [fetch, afterWords_of_input hinput rfl]
    exact fetchFrom_resetInCommand hws rest
  rw [step, hfetch]

/-- Settles O12: either reset abandons a command still being received, and `resetInCommand` one that the words complete. -/
theorem resetAbandonsCommand : Obligations.ResetAbandonsCommand := by
  intro s ws rest h
  obtain ⟨hd, hinput | hinput⟩ | ⟨i, hd, hinput⟩ | ⟨op, hd, hinput⟩ := h
  · exact step_of_reset hd hinput
  · exact step_of_resetInCommand (.inl hd) hinput
  · exact step_of_resetInCommand (.inr (.inl ⟨i, hd⟩)) hinput
  · exact step_of_resetInCommand (.inr (.inr ⟨op, hd⟩)) hinput

end Sys2Proof.Proofs
end

/-! STATUS along a step and along a run (R252, R257, R260). -/
section
namespace Sys2Proof.Proofs

open Machine Claims

/-- Settles O14: either no condition of R251 holds and STATUS stays, or the command is the fault with that cause. -/
theorem statusChangesOnlyByListedCauses : Obligations.StatusChangesOnlyByListedCauses := by
  intro s i
  obtain ⟨t, hexec⟩ := exec_next i s
  refine ⟨t, hexec, fun hcause => exec_keeps_status_of_causeOf_none hcause hexec, fun c hcause => ?_⟩
  cases (exec_of_causeOf_some hcause).symm.trans hexec
  exact raised_raiseFault c _

/-- What a fetch leaves of the host's input. -/
def fetchedRest : Fetched → List HostInput
  | .command _ rest => rest
  | .illegal rest => rest
  | .wait _ rest => rest
  | .reset rest => rest
  | .secondWriter => []

/-- A step leaves the input that its fetch left. -/
theorem input_of_step {s t : State} (h : step s = .next t) : t.input = fetchedRest (fetch s) := by
  obtain ⟨i, rest, hfetch, hexec⟩ | ⟨rest, hfetch, rfl⟩ | ⟨p, rest, hfetch, -, rfl⟩ | ⟨rest, hfetch, rfl⟩ := step_cases h
  · rw [hfetch]
    obtain ⟨-, -, hinput⟩ := exec_keeps hexec
    exact hinput
  · rw [hfetch]
    rfl
  · rw [hfetch]
    rfl
  · rw [hfetch]
    rfl

theorem mem_of_mem_cutShort {e : HostInput} {left : List Word} {evs : List HostInput} {f : Fetched} (hf : e ∈ fetchedRest f → e ∈ evs)
    (h : e ∈ fetchedRest (cutShort left evs f)) : e ∈ evs := by
  unfold cutShort at h
  split at h
  · exact List.mem_cons_of_mem _ h
  · cases h
  · exact hf h

section
variable {e : HostInput} (he : ∀ w, e ≠ .word w)
include he

theorem mem_of_mem_words_append {left : List Word} {evs : List HostInput} (h : e ∈ left.map .word ++ evs) : e ∈ evs := by
  refine (List.mem_append.mp h).resolve_left fun hleft => ?_
  obtain ⟨w, -, hw⟩ := List.mem_map.mp hleft
  exact he w hw.symm

/-- Besides words, a fetch leaves only actions that stood in the input. -/
theorem mem_of_mem_fetchFrom {ws : List Word} {evs : List HostInput} (h : e ∈ fetchedRest (fetchFrom ws evs)) : e ∈ evs := by
  unfold fetchFrom at h
  split at h
  · exact mem_of_mem_cutShort (mem_of_mem_words_append he) h
  · exact mem_of_mem_cutShort (mem_of_mem_words_append he) h
  · split at h
    · exact List.mem_cons_of_mem _ h
    · exact List.mem_cons_of_mem _ h
    · cases h
    · exact h

theorem not_mem_input_of_step {s t : State} (hstep : step s = .next t) (h : e ∉ s.input) : e ∉ t.input := by
  rw [input_of_step hstep]
  exact fun hmem => h (mem_of_mem_afterWords (mem_of_mem_fetchFrom he hmem))

end

/-- The host asserts no reset. -/
def NoReset (evs : List HostInput) : Prop := HostInput.reset ∉ evs ∧ HostInput.resetInCommand ∉ evs

theorem noReset_of_step {s t : State} (hstep : step s = .next t) (h : NoReset s.input) : NoReset t.input :=
  ⟨not_mem_input_of_step (e := .reset) (fun _ => nofun) hstep h.1,
    not_mem_input_of_step (e := .resetInCommand) (fun _ => nofun) hstep h.2⟩

theorem run_succ_of_next {M : Host.Core} {s u : M.State} (h : M.step s = .next u) (n : Nat) : M.run (n + 1) s = M.run n u := by
  rw [Host.Core.run, h]

theorem run_succ_of_refused {M : Host.Core} {s : M.State} {r : M.Refusal} (h : M.step s = .refused r) (n : Nat) :
    M.run (n + 1) s = .refused r := by
  rw [Host.Core.run, h]

/-- The first step of a run that completes completes. -/
theorem step_of_run {n : Nat} {s t : State} (h : core.run (n + 1) s = .next t) : ∃ u, step s = .next u ∧ core.run n u = .next t := by
  obtain ⟨u, hstep⟩ | ⟨hrefused, -⟩ := step_next_or_secondWriter s
  · exact ⟨u, hstep, (run_succ_of_next (M := core) hstep n).symm.trans h⟩
  · cases (run_succ_of_refused (M := core) hrefused n).symm.trans h

/-- A run without a reset that ends without a recorded fault started without one, since a recorded fault stays (R259). -/
theorem noFault_of_safeRun {n : Nat} {s t : State} (hrun : SafeRun n s t) (hreset : NoReset s.input) : s.NoFault := by
  induction n generalizing s with
  | zero =>
    obtain ⟨hnext, hsafe⟩ := hrun
    cases hnext
    exact hsafe
  | succ n ih =>
    obtain ⟨hnext, hsafe⟩ := hrun
    obtain ⟨u, hstep, hnext⟩ := step_of_run hnext
    have hu : u.NoFault := ih ⟨hnext, hsafe⟩ (noReset_of_step hstep hreset)
    refine Bool.eq_false_iff.mpr fun hfault => ?_
    rw [State.NoFault, faultStaysUntilReset.1 s u hstep hfault hreset.1 hreset.2, hfault] at hu
    cases hu

/-- Every shorter run completes, and it ends without a fault because the rest of the long run starts where it ends. -/
theorem safeRun_of_le {n m : Nat} {s t : State} (hrun : SafeRun n s t) (hmn : m ≤ n) (hreset : NoReset s.input) :
    ∃ u, SafeRun m s u := by
  induction m generalizing n s with
  | zero => exact ⟨s, rfl, noFault_of_safeRun hrun hreset⟩
  | succ m ih =>
    obtain ⟨n, rfl⟩ := Nat.exists_eq_add_of_lt hmn
    obtain ⟨hnext, hsafe⟩ := hrun
    obtain ⟨u, hstep, hnext⟩ := step_of_run hnext
    obtain ⟨v, hv, hvsafe⟩ := ih ⟨hnext, hsafe⟩ (Nat.le_add_right m n) (noReset_of_step hstep hreset)
    exact ⟨v, (run_succ_of_next (M := core) hstep m).trans hv, hvsafe⟩

/-- Settles O16: the shorter run of `safeRun_of_le`. -/
theorem safeRunIsSafeThroughout : Obligations.SafeRunIsSafeThroughout :=
  fun _ _ _ _ hrun hmn hreset hresetIn => safeRun_of_le hrun hmn ⟨hreset, hresetIn⟩

end Sys2Proof.Proofs
end

/-! The sprite record (R92, R93, R94) and what the registers read (R40, R43, R44). -/
section
namespace Sys2Proof.Proofs

open Machine Claims

/-- A bit of a record's flags is a bit of its word S1. -/
theorem getLsbD_highHalf (v : Word) {k : Nat} (hk : k < 16) : (highHalf v).getLsbD k = v.getLsbD (16 + k) := by
  rw [highHalf, BitVec.getLsbD_extractLsb', decide_eq_true hk, Bool.true_and]

/-- A 2-bit code inside a record's flags is a field of its word S1. -/
theorem slice_highHalf (v : Word) {k : Nat} (hk : k + 2 ≤ 16) : slice (highHalf v) k 2 = slice v (16 + k) 2 := by
  refine BitVec.eq_of_getLsbD_eq fun i hi => ?_
  rw [BitVec.getLsbD_extractLsb', BitVec.getLsbD_extractLsb', getLsbD_highHalf v (by omega), Nat.add_assoc]

/-- Settles O20: the fields of S0 and S2 are their halves, those of the flags are bits of S1's upper half, and packing undoes
unpacking either way. -/
theorem spriteRecordIsExact : Obligations.SpriteRecordIsExact := by
  refine ⟨fun s0 s1 s2 => ?_, unpackSprite_pack⟩
  have hbit {k : Nat} (hk : k < 16) : (highHalf s1).getLsbD k = s1.getLsbD (16 + k) := getLsbD_highHalf s1 hk
  exact ⟨rfl, rfl, rfl, rfl, rfl, rfl, hbit (k := 0) (by decide), hbit (k := 1) (by decide), hbit (k := 2) (by decide),
    hbit (k := 3) (by decide), hbit (k := 4) (by decide), hbit (k := 5) (by decide), hbit (k := 6) (by decide),
    hbit (k := 7) (by decide), hbit (k := 8) (by decide), hbit (k := 9) (by decide),
    congrArg logicOfCode (slice_highHalf s1 (k := 10) (by decide)), hbit (k := 12) (by decide), hbit (k := 13) (by decide),
    congrArg logicOfCode (slice_highHalf s1 (k := 14) (by decide)),
    packS0_unpackSprite s0 s1 s2, packS1_unpackSprite s0 s1 s2, packS2_unpackSprite s0 s1 s2⟩

/-- Appending below is shifting up and adding. -/
theorem toNat_append_eq_add {m n : Nat} (u : BitVec m) (v : BitVec n) : (u ++ v).toNat = v.toNat + 2 ^ n * u.toNat := by
  rw [BitVec.toNat_append, ← Nat.shiftLeft_add_eq_or_of_lt v.isLt, Nat.shiftLeft_eq, Nat.add_comm, Nat.mul_comm]

theorem toNat_byteReg (b : Byte) : (0#8 ++ b : Half).toNat = b.toNat :=
  toNat_append_eq_add 0#8 b

theorem toNat_paramWord (p : Params) :
    (paramWord p).toNat = p.mapLog2.toNat + 16 * p.sheetWLog2.toNat + 256 * p.sheetHLog2.toNat := by
  simp only [paramWord, toNat_append_eq_add, BitVec.toNat_zero]
  omega

theorem toNat_statusWord (t : Status) : (statusWord t).toNat = t.fault.toNat + 16 * causeNumber t.cause := by
  obtain ⟨fault, cause⟩ := t
  cases fault <;> cases cause <;> rfl

/-- Settles O25: the word of each register, field by field. -/
theorem registerMapReads : Obligations.RegisterMapReads :=
  fun s => ⟨rfl, rfl, toNat_byteReg _, toNat_byteReg _, toNat_byteReg _, toNat_byteReg _, toNat_byteReg _, rfl, rfl, rfl, rfl,
    getLsbD_cmathCtrl s.glob, getLsbD_bgCtrl s.bg0, getLsbD_bgCtrl s.bg1, toNat_statusWord s.status, toNat_paramWord s.params,
    fun _ => regOfNumber_of_not_mem⟩

/-- FAULT is bit 0 of STATUS, the cause's code bits 7 to 4 (R43). -/
theorem getLsbD_statusWord (t : Status) (k : Nat) :
    (statusWord t).getLsbD k =
      if k = 0 then t.fault else if 4 ≤ k ∧ k < 8 then (causeNumber t.cause).testBit (k - 4) else false := by
  have hcode : causeNumber t.cause = (causeCode t.cause).toNat := by cases t.cause <;> rfl
  simp only [statusWord, BitVec.getLsbD_append, hcode, BitVec.testBit_toNat]
  rcases k with _ | _ | _ | _ | k
  · simp
  · simp
  · simp
  · simp
  · by_cases h8 : k < 4
    · simp [h8, show ¬ k + 1 + 1 + 1 < 3 by omega, show k + 1 + 1 + 1 + 1 < 8 by omega]
    · simp [h8, show ¬ k + 1 + 1 + 1 + 1 < 8 by omega]

/-- Settles O28: the two words bit by bit; a write to either is skipped, and no step changes a parameter. -/
theorem statusAndParamBits : Obligations.StatusAndParamBits := by
  refine ⟨fun s => ⟨getLsbD_statusWord s.status, ?_⟩, fun s v => ⟨rfl, rfl⟩, paramWord_mapLog2 Config.params,
    fun s t => step_keeps_params⟩
  rw [regValue_param, paramWord_mapLog2, paramWord_sheetWLog2, paramWord_sheetHLog2, paramWord_reserved]
  exact ⟨rfl, rfl, rfl, rfl, rfl, rfl, rfl⟩

end Sys2Proof.Proofs
end

/-! The binner and the window (R48, R131 to R138). -/
section
namespace Sys2Proof.Proofs

open Machine Claims

/-- Settles O32: each bound is one conjunct, and no number lies between bounds in the wrong order. -/
theorem windowMembershipInclusive : Obligations.WindowMembershipInclusive := by
  intro g x
  have hA : inA g x = true ↔ g.win1Left.toNat ≤ x ∧ x ≤ g.win1Right.toNat := by
    rw [inA, Bool.and_eq_true, decide_eq_true_iff, decide_eq_true_iff]
  have hB : inB g x = true ↔ g.win2Left.toNat ≤ x ∧ x ≤ g.win2Right.toNat := by
    rw [inB, Bool.and_eq_true, decide_eq_true_iff, decide_eq_true_iff]
  exact ⟨hA, hB, fun h => Bool.eq_false_iff.mpr fun ht => by have := hA.mp ht; omega,
    fun h => Bool.eq_false_iff.mpr fun ht => by have := hB.mp ht; omega⟩

/-- The object table numbered in order: descriptor `i` of the list is entry `i`. -/
theorem zipIdx_oam (s : State) : s.oam.toList.zipIdx = (List.range 256).map (fun i => (s.sprite (BitVec.ofNat 8 i), i)) := by
  refine List.ext_getElem (by simp) fun i hi _ => ?_
  have hlt : i < 256 := by simpa using hi
  simp [State.sprite, Nat.mod_eq_of_lt hlt]

/-- The candidates of a class, as a filter of the index range. -/
theorem candidates_oam (s : State) (f : BinFilter) (y : Nat) (priority : Bool) :
    candidates f y priority s.oam.toList 0 =
      ((List.range 256).filter (fun i => eligible f y (s.sprite (BitVec.ofNat 8 i)) &&
        (s.sprite (BitVec.ofNat 8 i)).priority == priority)).map (BitVec.ofNat 8) := by
  rw [candidates, zipIdx_oam, List.filter_map, List.map_map]
  rfl

/-- Settles O33: the closed form of `bin_eq`, over the index range, with the tests of `eligible` written out. -/
theorem binSelectsFirstSixteen : Obligations.BinSelectsFirstSixteen := by
  intro s y VISIBLE_ANY eff_h ELIG
  have helig (i : Nat) : eligible s.params.binFilter y (s.sprite (BitVec.ofNat 8 i)) = ELIG i := by
    simp only [ELIG, eligible, coversRow, Bool.decide_and]
    rfl
  rw [bin_eq]
  simp only [candidates_oam, helig, beq_false, beq_true, List.map_take]
  exact ⟨rfl, rfl⟩

theorem coversRow_iff (p : Sprite) (y : Nat) :
    coversRow p y = true ↔ 0 ≤ (y : Int) - p.y.toInt ∧ (y : Int) - p.y.toInt < (effH p : Int) := by
  rw [coversRow, Bool.and_eq_true, decide_eq_true_iff, decide_eq_true_iff, sub_nonneg, sub_lt_iff_lt_add']

/-- Settles O35: a cached sprite is eligible on the row, which includes the vertical test. -/
theorem cachedSpriteCoversRow : Obligations.CachedSpriteCoversRow := by
  intro s y i hi
  obtain ⟨hlo, hhi⟩ := mem_bin (s := s) (y := y) (i := i)
  have helig : eligible s.params.binFilter y (s.sprite i) = true := hi.elim (fun h => (hlo h).1) (fun h => (hhi h).1)
  exact (coversRow_iff _ y).mp (Bool.and_eq_true_iff.mp helig).2

/-- A screen with neither half of its window enabled lets nothing through. -/
theorem windowAt_of_closed {w : WinSel} (h : (w.drawIn || w.drawOut) = false) (g : Glob) (x : Nat) : windowAt g w x = false := by
  obtain ⟨hin, hout⟩ := Bool.or_eq_false_iff.mp h
  simp [windowAt, window, hin, hout]

/-- A screen the visibility test drops is off or closed, under either BIN_FILTER (R132). -/
theorem screens_of_not_visibleAny {f : BinFilter} {p : Sprite} (h : visibleAny f p = false) :
    (p.gate.drawMain = false ∨ (p.gate.mwin.drawIn || p.gate.mwin.drawOut) = false) ∧
      (p.gate.drawSub = false ∨ (p.gate.swin.drawIn || p.gate.swin.drawOut) = false) := by
  cases f with
  | drawAndWindow =>
    obtain ⟨hmain, hsub⟩ := Bool.or_eq_false_iff.mp h
    exact ⟨Bool.and_eq_false_iff.mp hmain, Bool.and_eq_false_iff.mp hsub⟩
  | windowOnly =>
    have hall : (p.gate.mwin.drawIn || p.gate.mwin.drawOut || (p.gate.swin.drawIn || p.gate.swin.drawOut)) = false := by
      rw [← Bool.or_assoc]
      exact h
    obtain ⟨hmain, hsub⟩ := Bool.or_eq_false_iff.mp hall
    exact ⟨.inr hmain, .inr hsub⟩

/-- Neither screen takes a write of an object whose screens are each off or closed. -/
theorem paint_of_screens_shut {o : Gate} (hmain : o.drawMain = false ∨ (o.mwin.drawIn || o.mwin.drawOut) = false)
    (hsub : o.drawSub = false ∨ (o.swin.drawIn || o.swin.drawOut) = false) (s : State) (x : Nat) (c : Colour) (w : Work) :
    paint s x o c w = w := by
  have hmain' : ¬ (c ≠ 0 ∧ o.drawMain = true ∧ windowAt s.glob o.mwin x = true) := fun ⟨_, hdraw, hwin⟩ =>
    hmain.elim (Bool.eq_false_iff.mp · hdraw) fun hclosed => Bool.eq_false_iff.mp (windowAt_of_closed hclosed _ _) hwin
  have hsub' : ¬ ((c ≠ 0 ∨ s.params.subNeedsOpaque = false) ∧ o.drawSub = true ∧ windowAt s.glob o.swin x = true) :=
    fun ⟨_, hdraw, hwin⟩ =>
      hsub.elim (Bool.eq_false_iff.mp · hdraw) fun hclosed => Bool.eq_false_iff.mp (windowAt_of_closed hclosed _ _) hwin
  rw [paint, paintMain_of_not_pass hmain', paintSub_of_not_pass hsub']

/-- Settles O34: each screen of a dropped sprite is off or closed, so covering a column makes no difference. -/
theorem filteredSpriteWouldDrawNothing : Obligations.FilteredSpriteWouldDrawNothing := by
  intro f s i hvisible x y w
  obtain ⟨hmain, hsub⟩ := screens_of_not_visibleAny hvisible
  by_cases hcol : coversCol (s.sprite i) x = true
  · rw [spriteStepOne_of_covers hcol, paint_of_screens_shut hmain hsub]
  · exact spriteStepOne_of_not_covers hcol y w

end Sys2Proof.Proofs
end

/-! Coordinates: the scroll's wrap (R64, R65) and a sprite's source offsets (R167, R174). -/
section
namespace Sys2Proof.Proofs

open Machine Claims

theorem mapSize_pos (p : Params) : 0 < p.mapSize :=
  Nat.two_pow_pos _

theorem mapSize_dvd (p : Params) : p.mapSize ∣ 2 ^ 16 :=
  Nat.pow_dvd_pow 2 (by have := p.mapLog2.isLt; omega)

/-- The floor modulus, as an integer. -/
theorem scrolled_cast (p : Params) (v : Nat) (scroll : Half) :
    (scrolled p v scroll : Int) = ((v : Int) + scroll.toInt) % (p.mapSize : Int) :=
  Int.toNat_of_nonneg (Int.emod_nonneg _ (Int.natCast_ne_zero.mpr (mapSize_pos p).ne'))

/-- A signed field and the unsigned one differ by 0 or 2^16, which every map size divides. -/
theorem toInt_emod_mapSize (p : Params) (scroll : Half) : scroll.toInt % (p.mapSize : Int) = (scroll.toNat : Int) % (p.mapSize : Int) := by
  have hdvd : (p.mapSize : Int) ∣ ((2 ^ 16 : Nat) : Int) := Int.natCast_dvd_natCast.mpr (mapSize_dvd p)
  rw [BitVec.toInt_eq_toNat_bmod, ← Int.emod_emod_of_dvd _ hdvd, Int.bmod_emod, Int.emod_emod_of_dvd _ hdvd]

/-- Settles O37: the signed and the unsigned scroll are congruent modulo the map size. -/
theorem scrollWrapsBothWays : Obligations.ScrollWrapsBothWays := by
  intro p v scroll
  have hcast := scrolled_cast p v scroll
  have hunsigned : scrolled p v scroll = (v + scroll.toNat) % p.mapSize := by
    refine Int.natCast_inj.mp ?_
    rw [hcast, Int.add_emod, toInt_emod_mapSize, ← Int.add_emod, Int.natCast_emod, Int.natCast_add]
  exact ⟨hcast, hunsigned, hunsigned ▸ Nat.mod_lt _ (mapSize_pos p)⟩

theorem halveOffset_eq (p : Sprite) (n : Nat) : halveOffset p n = if p.doubleSize then n / 2 else n := by
  rw [halveOffset, Nat.shiftRight_eq_div_pow, pow_one]

/-- One axis of the source offset, mirrored or not, with the extent doubled or not (R167). -/
def axisOffset (double flip : Bool) (size d : Nat) : Nat :=
  let extent := if double then 2 * size else size
  let f := if flip then extent - 1 - d else d
  if double then f / 2 else f

section
variable {double flip : Bool} {size d : Nat} (hd : d < if double then 2 * size else size)
include hd

/-- `floor((2n - 1 - d) / 2) = n - 1 - floor(d / 2)` (R174). -/
theorem axisOffset_flip : axisOffset double true size d = size - 1 - axisOffset double false size d := by
  cases double with
  | false => rfl
  | true =>
    change d < 2 * size at hd
    change (2 * size - 1 - d) / 2 = size - 1 - d / 2
    omega

theorem axisOffset_lt : axisOffset double flip size d < size := by
  have hplain : axisOffset double false size d < size := by
    cases double with
    | false => exact hd
    | true => exact Nat.div_lt_of_lt_mul hd
  cases flip with
  | false => exact hplain
  | true =>
    rw [axisOffset_flip hd]
    omega

end

theorem halveOffset_flipX (p : Sprite) (d : Nat) : halveOffset p (flipX p d) = axisOffset p.doubleSize p.flipX p.width.toNat d :=
  halveOffset_eq p _

theorem halveOffset_flipY (p : Sprite) (dx d : Nat) :
    halveOffset p (flipY .independent p dx d) = axisOffset p.doubleSize p.flipY p.height.toNat d :=
  halveOffset_eq p _

/-- Settles O40: both axes are `axisOffset`, which stays inside the size and mirrors it. -/
theorem sourceOffsetsInsideSprite : Obligations.SourceOffsetsInsideSprite := by
  intro p dx dy hdx hdy
  rw [halveOffset_flipX, halveOffset_flipY]
  refine ⟨halveOffset_eq p, axisOffset_lt hdx, axisOffset_lt hdy, fun h => ?_, fun h => ?_, fun h => ?_, fun h mode => ?_⟩
  · rw [h, axisOffset_flip hdx, halveOffset_eq]
    rfl
  · rw [h, halveOffset_eq]
    rfl
  · rw [h, axisOffset_flip hdy, halveOffset_eq]
    rfl
  · simp [flipY, h]

/-! The last writer of the high cache (R170, R172). -/

/-- A high sprite that does not write main keeps the main colour and the flag (R168). -/
theorem spriteStepOne_of_not_mainWriter {s : State} {x y : Nat} {i : Byte} (h : ¬ MainWriter s x y i) (w : Work) :
    (spriteStepOne s x y w i).mainColor = w.mainColor ∧ (spriteStepOne s x y w i).colorMathFlag = w.colorMathFlag := by
  by_cases hcol : coversCol (s.sprite i) x = true
  · rw [spriteStepOne_of_covers hcol]
    obtain ⟨-, hkeep, -⟩ := paint_writes s x (s.sprite i).gate
      (spriteSample s (s.sprite i) ((x : Int) - (s.sprite i).x.toInt).toNat ((y : Int) - (s.sprite i).y.toInt).toNat) w
    exact hkeep fun hpass => h ⟨hcol, hpass⟩
  · rw [spriteStepOne_of_not_covers hcol]
    exact ⟨rfl, rfl⟩

theorem spriteStepOne_of_mainWriter {s : State} {x y : Nat} {i : Byte} (h : MainWriter s x y i) (w : Work) :
    (spriteStepOne s x y w i).mainColor =
        spriteSample s (s.sprite i) ((x : Int) - (s.sprite i).x.toInt).toNat ((y : Int) - (s.sprite i).y.toInt).toNat ∧
      (spriteStepOne s x y w i).colorMathFlag = (s.sprite i).gate.cmath := by
  obtain ⟨hcol, hpass⟩ := h
  rw [spriteStepOne_of_covers hcol]
  exact (paint_writes s x (s.sprite i).gate _ w).1 hpass

theorem spriteStep_of_no_mainWriter {s : State} {x y : Nat} {cache : List Byte} (h : ∀ j ∈ cache, ¬ MainWriter s x y j) (w : Work) :
    (spriteStep s cache x y w).mainColor = w.mainColor ∧ (spriteStep s cache x y w).colorMathFlag = w.colorMathFlag := by
  induction cache generalizing w with
  | nil => exact ⟨rfl, rfl⟩
  | cons j cache ih =>
    obtain ⟨hj, hcache⟩ := List.forall_mem_cons.mp h
    obtain ⟨hmain, hflag⟩ := spriteStepOne_of_not_mainWriter hj w
    obtain ⟨hmain', hflag'⟩ := ih hcache (spriteStepOne s x y w j)
    exact ⟨hmain'.trans hmain, hflag'.trans hflag⟩

/-- The sprites after the last writer keep what it wrote, whatever the registers held before it (R172). -/
theorem spriteStep_of_last_mainWriter {s : State} {x y : Nat} {i : Byte} {after : List Byte} (hwriter : MainWriter s x y i)
    (hafter : ∀ j ∈ after, ¬ MainWriter s x y j) (before : List Byte) (w : Work) :
    (spriteStep s (before ++ i :: after) x y w).mainColor =
        spriteSample s (s.sprite i) ((x : Int) - (s.sprite i).x.toInt).toNat ((y : Int) - (s.sprite i).y.toInt).toNat ∧
      (spriteStep s (before ++ i :: after) x y w).colorMathFlag = (s.sprite i).gate.cmath := by
  obtain ⟨hmain, hflag⟩ := spriteStepOne_of_mainWriter hwriter (spriteStep s before x y w)
  obtain ⟨hkeepMain, hkeepFlag⟩ := spriteStep_of_no_mainWriter hafter (spriteStepOne s x y (spriteStep s before x y w) i)
  rw [spriteStep, List.foldl_append, List.foldl_cons]
  exact ⟨hkeepMain.trans hmain, hkeepFlag.trans hflag⟩

/-- Settles O42: the high cache comes last in COMPOSITE. -/
theorem lastHighSpriteWins : Obligations.LastHighSpriteWins := by
  intro s c x y before after i hhi hwriter hafter
  rw [composite, hhi]
  exact spriteStep_of_last_mainWriter hwriter hafter before _

end Sys2Proof.Proofs
end

/-! Fade (R198, R202). -/
section
namespace Sys2Proof.Proofs

open Machine

/-- A level is at most 255 of 256 parts, so a faded channel is less than the channel, unless that is 0. -/
theorem mul_level_div_lt {a : Nat} (level : Byte) (ha : 0 < a) : a * level.toNat / 256 < a := by
  have hlevel := level.isLt
  exact Nat.div_lt_of_lt_mul (by rw [Nat.mul_comm 256]; exact Nat.mul_lt_mul_of_pos_left hlevel ha)

/-- Fading needs no mask: the result is no greater than the channel (R198). -/
theorem fadeChannel_true {cw a : Nat} (level : Byte) (ha : a < 2 ^ cw) : fadeChannel true level cw a = a * level.toNat / 256 := by
  have hle : a * level.toNat / 256 ≤ a := by
    rcases Nat.eq_zero_or_pos a with rfl | hpos
    · simp
    · exact (mul_level_div_lt level hpos).le
  rw [fadeChannel_eq, if_pos rfl, Nat.mod_eq_of_lt (hle.trans_lt ha)]

/-- Settles O45: each level is put into the unmasked quotient; 255 needs the channel to be at most 256. -/
theorem fadeNeverBrightens : Obligations.FadeNeverBrightens := by
  intro cw a level ha hcw
  have ha8 : a < 2 ^ 8 := ha.trans_le (Nat.pow_le_pow_right (by decide) hcw)
  refine ⟨fadeChannel_true level ha, fun hpos => ?_, ?_, ?_, ?_⟩
  · rw [fadeChannel_true level ha]
    exact mul_level_div_lt level hpos
  · rw [fadeChannel_true 128 ha]
    change a * 128 / 256 = a / 2
    omega
  · rw [fadeChannel_true 255 ha]
    change a * 255 / 256 = a - 1
    omega
  · rw [fadeChannel_true 0 ha]
    change a * 0 / 256 = 0
    omega

end Sys2Proof.Proofs
end

/-! What a RENDER's elements depend on (R213, R218, R221, R272). -/
section
namespace Sys2Proof.Proofs

open Machine Claims

/-- Element `k` of the frame buffer that RENDER leaves is pixel `k` of the frame in row-major order (R210). -/
theorem readElem_renderFrame (s : State) {k : Nat} (hk : k < 57600) :
    (renderFrame s).fb.readElem k = framePixel s (k % 240) (k / 240) := by
  obtain ⟨m, hrender, hpix, -⟩ := renderFrame_eq s
  have hpixel := hpix (k % 240) (k / 240) (Nat.mod_lt k (by decide)) (Nat.div_lt_of_lt_mul hk)
  rw [show k / 240 * Config.screenW + k % 240 = k from Nat.div_add_mod' k 240] at hpixel
  rw [hrender]
  exact hpixel

theorem exec_render (s : State) : exec .render s = .next (renderFrame s) :=
  rfl

/-- Settles O48: element by element, the two frames are pixels of equal inputs. -/
theorem frameDependsOnInputsOnly : Obligations.FrameDependsOnInputsOnly := by
  refine fun s s' hinputs => ⟨renderFrame s, renderFrame s', exec_render s, exec_render s', fun k hk => ?_⟩
  rw [readElem_renderFrame s hk, readElem_renderFrame s' hk, framePixel_congr hinputs]

/-- A frame's bytes are those of its 57600 elements, in its byte order (R70). -/
theorem bytes_congr {f g : FrameOut} (hswap : f.byteSwap = g.byteSwap)
    (hpix : ∀ k, k < 57600 → f.pixels.readElem k = g.pixels.readElem k) : f.bytes = g.bytes := by
  refine List.flatMap_congr fun k hk => ?_
  rw [hswap, hpix k (List.mem_range.mp hk)]

/-- The frame that a RENDER sends: the frame buffer it leaves, in the chip's byte order (R214). -/
def sentFrame (s : State) : FrameOut := { pixels := (renderFrame s).fb, byteSwap := s.params.fbByteSwap }

theorem frames_renderFrame (s : State) : (renderFrame s).frames = s.frames ++ [sentFrame s] := by
  obtain ⟨m, hrender, -⟩ := renderFrame_eq s
  rw [sentFrame, hrender]
  rfl

/-- Settles O49: the first RENDER keeps the pipeline's inputs, so the second computes the same pixels. -/
theorem renderTwiceSameFrame : Obligations.RenderTwiceSameFrame := by
  intro s
  obtain ⟨hinputs, -⟩ := renderFrame_keeps s
  obtain ⟨hparams, -⟩ := exec_keeps (exec_render s)
  have hsame (k : Nat) (hk : k < 57600) : (renderFrame (renderFrame s)).fb.readElem k = (renderFrame s).fb.readElem k := by
    rw [readElem_renderFrame _ hk, readElem_renderFrame s hk, framePixel_congr hinputs]
  have hframes : (renderFrame (renderFrame s)).frames = s.frames ++ [sentFrame s, sentFrame (renderFrame s)] := by
    rw [frames_renderFrame (renderFrame s), frames_renderFrame s, List.append_assoc, List.singleton_append]
  have hbytes : (sentFrame s).bytes = (sentFrame (renderFrame s)).bytes :=
    bytes_congr (by rw [sentFrame, sentFrame, hparams]) fun k hk => by rw [sentFrame, sentFrame, hsame k hk]
  exact ⟨_, _, _, _, exec_render s, exec_render (renderFrame s), hframes, hbytes, hsame⟩

/-- No sprite is cached where none is enabled (R131). -/
theorem bin_of_disabled {s : State} (h : ∀ i, (s.sprite i).enabled = false) (y : Nat) : bin s y = { lo := [], hi := [] } := by
  have hnot (i : Byte) : eligible s.params.binFilter y (s.sprite i) ≠ true := by simp [eligible, h i]
  obtain ⟨hlo, hhi⟩ : (bin s y).lo = [] ∧ (bin s y).hi = [] :=
    ⟨List.eq_nil_iff_forall_not_mem.mpr fun i hi => hnot i (mem_bin.1 hi).1,
      List.eq_nil_iff_forall_not_mem.mpr fun i hi => hnot i (mem_bin.2 hi).1⟩
  calc bin s y
      = { lo := (bin s y).lo, hi := (bin s y).hi } := rfl
    _ = { lo := [], hi := [] } := congrArg₂ Caches.mk hlo hhi

/-- With nothing enabled every pixel keeps the working registers of its start (R160, R218). -/
theorem framePixel_of_disabled {s : State} (hbg0 : s.bg0.enabled = false) (hbg1 : s.bg1.enabled = false)
    (hoam : ∀ i, (s.sprite i).enabled = false) (x y : Nat) :
    framePixel s x y = blend s.glob s.glob.defaultMain s.glob.defaultSub s.glob.cmathDefault := by
  have hcomposite : composite s { lo := [], hi := [] } x y = pixelStart s.glob := by
    simp only [composite, spriteStep, List.foldl_nil]
    rw [bgStep_of_disabled (l := .bg0) hbg0, bgStep_of_disabled (l := .bg1) hbg1]
  rw [framePixel, bin_of_disabled hoam, hcomposite]
  rfl

/-- Settles O51: every pixel is the blended pixel start; with fade off and no colour math BLEND passes the main colour. -/
theorem uniformFrame : Obligations.UniformFrame := by
  intro s hbg0 hbg1 hoam
  have helem (k : Nat) (hk : k < 57600) :
      (renderFrame s).fb.readElem k = blend s.glob s.glob.defaultMain s.glob.defaultSub s.glob.cmathDefault := by
    rw [readElem_renderFrame s hk, framePixel_of_disabled hbg0 hbg1 hoam]
  refine ⟨renderFrame s, exec_render s, helem, fun hfade huse k hk => ?_⟩
  rw [helem k hk, blend_of_bypass (Bool.and_eq_false_iff.mpr huse) hfade]

/-- A frame of 0x0000 elements is 115200 zero bytes, in either byte order. -/
theorem bytes_of_zero {f : FrameOut} (h : ∀ k, k < 57600 → f.pixels.readElem k = 0) : f.bytes = List.replicate 115200 0 := by
  refine List.eq_replicate_iff.mpr ⟨length_bytes f, fun b hb => ?_⟩
  obtain ⟨k, hk, hb⟩ := List.mem_flatMap.mp hb
  rw [h k (List.mem_range.mp hk)] at hb
  have hzero : pixelBytes f.byteSwap 0 = [0, 0] := by cases f.byteSwap <;> rfl
  rw [hzero] at hb
  simpa using hb

/-- Settles O52: after reset nothing is enabled and the default main colour is 0, so the frame is uniform and 0. -/
theorem frameAfterResetIsBlack : Obligations.FrameAfterResetIsBlack := by
  have hoam (i : Byte) : (State.reset.sprite i).enabled = false := by
    rw [reset_sprite]
    rfl
  have hzero (k : Nat) (hk : k < 57600) : (renderFrame State.reset).fb.readElem k = 0 := by
    rw [readElem_renderFrame State.reset hk, framePixel_of_disabled rfl rfl hoam]
    exact blend_of_bypass rfl rfl 0 0
  exact ⟨_, _, exec_render State.reset, hzero, frames_renderFrame State.reset, bytes_of_zero hzero⟩

end Sys2Proof.Proofs
end
